-- ==== Sys2Proof/Word.lean ====
section
/-!
DEFINITION. Words, the names of the two engines and the two channels, and the stereo frame (spec 00_scope R7, 10_state R38).
-/
namespace Sys2Proof

/-- A word is 32 bits (R7). -/
abbrev Word := BitVec 32

/-- One byte of a register on the host bus (R64). -/
abbrev Byte := BitVec 8

/-- The two DMA engines (R37). -/
inductive Eng where
  /-- Engine OUT: memory to serial output. -/
  | out
  /-- Engine CAP: sampler to memory. -/
  | cap
deriving DecidableEq, Repr, Inhabited

/-- The two channels, and the two buffers bound to them, of an engine (R38, R39). -/
inductive Chan where
  | a
  | b
deriving DecidableEq, Repr, Inhabited

/-- A frame is a pair of words, left and right (R7). -/
structure Frame where
  left : Word
  right : Word
deriving DecidableEq, Repr, Inhabited

end Sys2Proof
end

