-- ==== Sys2Proof/Config.lean ====
section
/-!
DEFINITION. The block's parameters (spec 00_scope R5), the moves its agents can make (R10), and the free values: the constants
the spec leaves open, which have no body.
-/
namespace Sys2Proof

/-- The parameters of R5 that a rule of the block reads. They are fixed for a launch: `State` carries them so that a statement
about every state is a statement about every legal parameter value (log entry 2). -/
structure Params where
  /-- `C`, the ring capacity in samples. -/
  capacity : Nat
  /-- `W_IN`, the native sample width in bits. -/
  wIn : Nat
  /-- `S`, the DMA buffer length in elements. -/
  bufLen : Nat
  /-- `NPORTS`, the number of command ports. -/
  nports : Nat
  /-- `OVERRUN_DETECT`. -/
  overrunDetect : Bool
  /-- `PRODUCER`: the port its context owns (log entry 4). -/
  producer : Nat
  /-- `CONSUMER`: the port its context owns (log entry 4). -/
  consumer : Nat
deriving DecidableEq, Repr, Inhabited

/-- The defaults of R5, with `PRODUCER` on port 0 and `CONSUMER` on port 1 as in 95_test_vectors (log entry 3). -/
def Params.default : Params where
  capacity := 512
  wIn := 16
  bufLen := 48
  nports := 4
  overrunDetect := false
  producer := 0
  consumer := 1

/-- One atomic step of one agent (R10, R66). A software context is named by the port it owns (log entry 4). -/
inductive Move where
  /-- The context of port `p` writes DATA (when it has an operand to give) and then CMD, as one transaction (R80). -/
  | command (p : Nat) (data : Option Word) (cmd : Word)
  /-- The context of port `p` makes one write access of `width` bytes to the host bus (R62). -/
  | busWrite (p : Nat) (width addr : Nat) (v : Word)
  /-- The context of port `p` makes one read access of `width` bytes to the host bus (R62). -/
  | busRead (p : Nat) (width addr : Nat)
  /-- The context of port `p`, whose FEED was held, has the hold lifted (R177, R179). -/
  | resume (p : Nat)
  /-- One element step of the feeder sub-agent (R178). -/
  | feeder
  /-- One element step of a transfer agent (R150, R151). -/
  | transfer (e : Eng)
deriving DecidableEq, Repr, Inhabited

/-- A draw of R9: the `n`-th free 32-bit value. No body, so no proof can know it (log entry 6). -/
opaque Config.freeWord : Nat → Word

/-- The agent that moves next where nothing has fixed it: R67 allows any interleaving (log entry 5). -/
opaque Config.freeMove : Nat → Move

/-- `BASE` in units of the window's alignment (R61). `BASE` is OPEN in R5 (log entry 9). -/
opaque Config.baseUnit : Nat

/-- `FRAME_RATE` (R5): information that no rule of the model depends on (R244). -/
def Config.frameRate : Nat := 48000

/-- `IRQ_PRIORITY` (R5, R208): the host's priority of each line. OPEN; the block imposes no order, so nothing reads it (log
entry 12). -/
opaque Config.irqPriority : Eng → Chan → Nat

/-- `SERIAL_BIT_ORDER` (R5, R75): which bit of a channel word leaves at each place on the wire. OPEN; no rule depends on it, so
nothing reads it (log entry 12). -/
opaque Config.serialBitOrder : Fin 32 → Fin 32

end Sys2Proof
end

