-- ==== Sys2Proof/Syntax.lean ====
section
/-!
DEFINITION. The commands of the block, one constructor per row of the opcode map (spec 30_encoding R86). The data operand is not
part of the command word: it stands in `P.DATA` (R84, R89).
-/
namespace Sys2Proof

/-- The 20 commands of R86. A 16-bit argument is the whole `ARG` field (R83). -/
inductive Instr where
  /-- R170 -/
  | nop
  /-- R171 -/
  | blkStatus
  /-- R172; `m` is ARG, of which only bits [1:0] may be set -/
  | blkClear (m : BitVec 16)
  /-- R101 -/
  | rbCapacity
  /-- R102 -/
  | rbLength
  /-- R103 -/
  | rbEmpty
  /-- R104 -/
  | rbWriteHead
  /-- R105 -/
  | rbDistWrap
  /-- R106; `j` is the offset from the write head -/
  | rbStore (j : BitVec 16)
  /-- R107; `n` is the sample count -/
  | rbAdvanceWrite (n : BitVec 16)
  /-- R108 -/
  | rbReadOne
  /-- R130 -/
  | dmaInit (e : Eng)
  /-- R131 -/
  | dmaStart (e : Eng)
  /-- R132; `len` is the transfer length -/
  | dmaArm (e : Eng) (x : Chan) (len : BitVec 16)
  /-- R133 -/
  | dmaAck (e : Eng) (x : Chan)
  /-- R134 -/
  | dmaStatus (e : Eng)
  /-- R135; `i` is the buffer index -/
  | bufWrite (e : Eng) (x : Chan) (i : BitVec 16)
  /-- R136; `i` is the buffer index -/
  | bufRead (e : Eng) (x : Chan) (i : BitVec 16)
  /-- R174 -/
  | cvt
  /-- R177 -/
  | feed (x : Chan)
deriving DecidableEq, Repr, Inhabited

end Sys2Proof
end

