-- ==== Sys2Proof/WellFormed.lean ====
section
/-!
DEFINITION. Which instructions have an encoding (spec 30_encoding R82, R88), which parameter values are legal (00_scope R5), and
which give the two ring agents a port each (70_reset_and_hazards R233, R246).
-/
namespace Sys2Proof

/-- The instruction has an encoding: BLK_CLEAR fixes ARG[15:2] to 0 (R86, R88); every other operand fills its field. -/
def Instr.wellFormed : Instr → Bool
  | .blkClear m => m.toNat < 4
  | .nop | .blkStatus | .rbCapacity | .rbLength | .rbEmpty | .rbWriteHead | .rbDistWrap => true
  | .rbStore _ | .rbAdvanceWrite _ | .rbReadOne => true
  | .dmaInit _ | .dmaStart _ | .dmaArm _ _ _ | .dmaAck _ _ | .dmaStatus _ => true
  | .bufWrite _ _ _ | .bufRead _ _ _ | .cvt | .feed _ => true

/-- The legal values of R5. -/
def Params.legal (p : Params) : Bool :=
  decide (2 ≤ p.capacity) && decide (p.capacity ≤ 65535) &&
  decide (1 ≤ p.wIn) && decide (p.wIn ≤ 32) &&
  decide (1 ≤ p.bufLen) && decide (p.bufLen ≤ 32767) &&
  decide (1 ≤ p.nports) && decide (p.nports ≤ 16)

/-- `PRODUCER` and `CONSUMER` each have a port of their own: two different ports of the block (R233(1), R246). It is a premise of a
launch and no law of R5: a block of one port is legal, and no launch of it is clean (log entry 4). -/
def Params.ownPorts (p : Params) : Bool :=
  decide (p.producer < p.nports) && decide (p.consumer < p.nports) && decide (p.producer ≠ p.consumer)

end Sys2Proof
end

