-- ==== Sys2Proof/Decode.lean ====
section
/-!
DEFINITION. The command word (spec 30_encoding R81), its decoding, total on every word (R86 to R88), and the encoder.
-/
namespace Sys2Proof

/-- Byte `k` of a register: bits [8k+7:8k], at bus byte address `a + k` (R64). -/
def byteOf (w : Word) (k : Nat) : Byte := w.extractLsb' (8 * k) 8

/-- The register whose bytes, from the lowest bus address up, are `b0 b1 b2 b3` (R64). -/
def wordOfBytes (b0 b1 b2 b3 : Byte) : Word := b3 ++ b2 ++ b1 ++ b0

/-- OP, bits [7:0] (R81). -/
def opField (w : Word) : BitVec 8 := w.extractLsb' 0 8

/-- CH, bit [8]: 0 = A, 1 = B (R81, R85). -/
def chField (w : Word) : Chan := if w.getLsbD 8 then .b else .a

/-- ENG, bit [9]: 0 = OUT, 1 = CAP (R81, R85). -/
def engField (w : Word) : Eng := if w.getLsbD 9 then .cap else .out

/-- RSV, bits [15:10] (R81). -/
def rsvField (w : Word) : BitVec 6 := w.extractLsb' 10 6

/-- ARG, bits [31:16] (R81, R83). -/
def argField (w : Word) : BitVec 16 := w.extractLsb' 16 16

/-- A row of the opcode map R86: the command a word `w` with `w AND mask = pat` stands for. -/
structure Row where
  mnemonic : String
  pat : Word
  mask : Word
  build : Word → Instr

/-- The block control and ring rows of R86. -/
def blockRows : List Row := [
  ⟨"NOP",              0x00000000#32, 0xFFFFFFFF#32, fun _ => .nop⟩,
  ⟨"BLK_STATUS",       0x00000001#32, 0xFFFFFFFF#32, fun _ => .blkStatus⟩,
  ⟨"BLK_CLEAR",        0x00000002#32, 0xFFFCFFFF#32, fun w => .blkClear (argField w)⟩,
  ⟨"RB_CAPACITY",      0x00000010#32, 0xFFFFFFFF#32, fun _ => .rbCapacity⟩,
  ⟨"RB_LENGTH",        0x00000011#32, 0xFFFFFFFF#32, fun _ => .rbLength⟩,
  ⟨"RB_EMPTY",         0x00000012#32, 0xFFFFFFFF#32, fun _ => .rbEmpty⟩,
  ⟨"RB_WRITE_HEAD",    0x00000013#32, 0xFFFFFFFF#32, fun _ => .rbWriteHead⟩,
  ⟨"RB_DIST_WRAP",     0x00000014#32, 0xFFFFFFFF#32, fun _ => .rbDistWrap⟩,
  ⟨"RB_STORE",         0x00000015#32, 0x0000FFFF#32, fun w => .rbStore (argField w)⟩,
  ⟨"RB_ADVANCE_WRITE", 0x00000016#32, 0x0000FFFF#32, fun w => .rbAdvanceWrite (argField w)⟩,
  ⟨"RB_READ_ONE",      0x00000017#32, 0xFFFFFFFF#32, fun _ => .rbReadOne⟩]

/-- The DMA and converter rows of R86. -/
def engineRows : List Row := [
  ⟨"DMA_INIT",         0x00000020#32, 0xFFFFFDFF#32, fun w => .dmaInit (engField w)⟩,
  ⟨"DMA_START",        0x00000021#32, 0xFFFFFDFF#32, fun w => .dmaStart (engField w)⟩,
  ⟨"DMA_ARM",          0x00000022#32, 0x0000FCFF#32, fun w => .dmaArm (engField w) (chField w) (argField w)⟩,
  ⟨"DMA_ACK",          0x00000023#32, 0xFFFFFCFF#32, fun w => .dmaAck (engField w) (chField w)⟩,
  ⟨"DMA_STATUS",       0x00000024#32, 0xFFFFFDFF#32, fun w => .dmaStatus (engField w)⟩,
  ⟨"BUF_WRITE",        0x00000025#32, 0x0000FCFF#32, fun w => .bufWrite (engField w) (chField w) (argField w)⟩,
  ⟨"BUF_READ",         0x00000026#32, 0x0000FCFF#32, fun w => .bufRead (engField w) (chField w) (argField w)⟩,
  ⟨"CVT",              0x00000030#32, 0xFFFFFFFF#32, fun _ => .cvt⟩,
  ⟨"FEED",             0x00000031#32, 0xFFFFFEFF#32, fun w => .feed (chField w)⟩]

/-- The complete opcode map (R86). -/
def opcodeTable : List Row := blockRows ++ engineRows

/-- Word `w` is the command of row `r` (R86). -/
def Row.covers (r : Row) (w : Word) : Bool := w &&& r.mask == r.pat

/-- Why a word is ILLEGAL (R88). All three are performed alike. -/
inductive Reject where
  /-- OP is not in the map. -/
  | unknownOpcode
  /-- RSV is not 0. -/
  | reservedNonzero
  /-- A bit of CH, ENG or ARG that the row fixes to 0 is 1. -/
  | fixedFieldNonzero
deriving DecidableEq, Repr

/-- The reason a word that no row covers is illegal (R88). -/
def rejectReason (w : Word) : Reject :=
  if opcodeTable.all fun r => opField r.pat != opField w then .unknownOpcode
  else if rsvField w != 0#6 then .reservedNonzero
  else .fixedFieldNonzero

/-- Decoding, total on every 32-bit word (R87). -/
def decode (w : Word) : Except Reject Instr :=
  match opcodeTable.find? fun r => r.covers w with
  | some r => .ok (r.build w)
  | none => .error (rejectReason w)

/-- The word the host bus carries as the bytes `b0 b1 b2 b3`, decoded (R64, R87). -/
def decodeBytes (b0 b1 b2 b3 : Byte) : Except Reject Instr := decode (wordOfBytes b0 b1 b2 b3)

/-- The instruction the decoder reads from a word given as a number, bits numbered as the opcode table numbers them; the bits
above `nbits` are 0. -/
def decodeTableWord (nbits w : Nat) : Option Instr :=
  let v : Word := BitVec.ofNat 32 (w % 2 ^ nbits)
  (decodeBytes (byteOf v 0) (byteOf v 1) (byteOf v 2) (byteOf v 3)).toOption

/-- The CH bit of a channel (R85). -/
def chBit : Chan → BitVec 1
  | .a => 0#1
  | .b => 1#1

/-- The ENG bit of an engine (R85). -/
def engBit : Eng → BitVec 1
  | .out => 0#1
  | .cap => 1#1

/-- `word = {ARG, RSV, ENG, CH, OP}` with RSV = 0 (R81). -/
def encodeFields (arg : BitVec 16) (e : Eng) (x : Chan) (op : BitVec 8) : Word :=
  arg ++ 0#6 ++ engBit e ++ chBit x ++ op

/-- The command word of an instruction (R81, R86); a field the command does not use is 0 (R82). -/
def encode : Instr → Word
  | .nop => encodeFields 0 .out .a 0x00
  | .blkStatus => encodeFields 0 .out .a 0x01
  | .blkClear m => encodeFields m .out .a 0x02
  | .rbCapacity => encodeFields 0 .out .a 0x10
  | .rbLength => encodeFields 0 .out .a 0x11
  | .rbEmpty => encodeFields 0 .out .a 0x12
  | .rbWriteHead => encodeFields 0 .out .a 0x13
  | .rbDistWrap => encodeFields 0 .out .a 0x14
  | .rbStore j => encodeFields j .out .a 0x15
  | .rbAdvanceWrite n => encodeFields n .out .a 0x16
  | .rbReadOne => encodeFields 0 .out .a 0x17
  | .dmaInit e => encodeFields 0 e .a 0x20
  | .dmaStart e => encodeFields 0 e .a 0x21
  | .dmaArm e x len => encodeFields len e x 0x22
  | .dmaAck e x => encodeFields 0 e x 0x23
  | .dmaStatus e => encodeFields 0 e .a 0x24
  | .bufWrite e x i => encodeFields i e x 0x25
  | .bufRead e x i => encodeFields i e x 0x26
  | .cvt => encodeFields 0 .out .a 0x30
  | .feed x => encodeFields 0 .out x 0x31

end Sys2Proof
end

