-- ==== Sys2Proof/Machine/State.lean ====
section
/-!
DEFINITION. The state of the block (spec 10_state), its reset value (R47), and the reasons a step can stop.
-/
namespace Sys2Proof.Machine

open Sys2Proof

/-- The contents of one element space of R60 (ring storage, or one buffer), as pairs of an element index and its value. An
element that is not listed holds 0, its reset value (R32, R39). Log entry 10. -/
abbrev Memory := List (Nat × Word)

/-- The canonical form: indices strictly rising, and no element listed that holds 0. -/
def Memory.wf (m : Memory) : Bool :=
  decide (m.Pairwise fun c d => c.1 < d.1) && m.all fun c => decide (c.2 ≠ 0)

/-- Every listed element lies in `[0, size)` and is of `width` bits. -/
def Memory.fits (size width : Nat) (m : Memory) : Bool :=
  m.all fun c => decide (c.1 < size) && decide (c.2.toNat < 2 ^ width)

/-- What the software context that owns a port is doing, apart from a FEED of its own in progress, which the feeder records
(R43, R80). -/
inductive Issuer where
  /-- It may make its next access. -/
  | ready
  /-- Its FEED of a channel is held until the FEED in progress ends (R177). -/
  | holding (x : Chan)
  /-- It made an access that the block does not support, and has no further step (R62). -/
  | stuck
deriving DecidableEq, Repr, Inhabited

/-- One command port (R31). -/
structure Port where
  /-- `P.CMD`: the last command word written. -/
  cmd : Word
  /-- `P.DATA`: the data operand. -/
  data : Word
  /-- `P.RES`: the first result word. -/
  res : Word
  /-- `P.RES2`: the second result word. -/
  res2 : Word
  /-- CODE, bits [7:0] of `P.STAT`; bits [31:8] read 0. -/
  stat : BitVec 8
  /-- The context that owns the port. -/
  issuer : Issuer
deriving DecidableEq, Repr, Inhabited

/-- One channel of an engine (R38). -/
structure Channel where
  armed : Bool
  active : Bool
  valid : Bool
  pos : Nat
  pend : Bool
  ie : Bool
deriving DecidableEq, Repr, Inhabited

/-- One engine: `INIT`, `RUN` (R37), its channels (R38) and its buffers (R39). -/
structure Engine where
  inited : Bool
  run : Bool
  chA : Channel
  chB : Channel
  bufA : Memory
  bufB : Memory
deriving DecidableEq, Repr, Inhabited

/-- The progress of a FEED (R43). -/
structure Feeder where
  /-- `feed_busy` -/
  busy : Bool
  /-- `feed_port` -/
  port : Nat
  /-- `feed_ch` -/
  ch : Chan
  /-- `feed_n`: the number of real samples to read -/
  n : Nat
  /-- `feed_i`: the elements done -/
  i : Nat
deriving DecidableEq, Repr, Inhabited

/-- The set `Faults` of R46, one mark per member (R205). -/
structure ModelFaults where
  missedRearm : Bool
  spscViolation : Bool
deriving DecidableEq, Repr, Inhabited

/-- Everything the spec gives the block, and, from `cur` down to the end of the last group, what the model adds to run it. -/
structure State where
  /-- The parameters of the launch (R5). -/
  par : Params
  /-- The command ports, port 0 first (R31). -/
  ports : List Port
  /-- Ring storage (R32). -/
  ring : Memory
  /-- The write cursor (R33). -/
  wr : Nat
  /-- The read cursor (R33). -/
  rd : Nat
  /-- The sticky bit STARVED (R35). -/
  starved : Bool
  /-- The sticky bit OVERRUN (R35). -/
  overrun : Bool
  /-- Engine OUT (R37). -/
  outEng : Engine
  /-- Engine CAP (R37). -/
  capEng : Engine
  /-- The feeder's progress (R43). -/
  feeder : Feeder
  /-- `SerialOut`, oldest frame first (R45). -/
  serialOut : List Frame
  /-- `Faults` (R46). -/
  faults : ModelFaults
  /-- MODEL'S OWN. The port `P` whose command is being performed, so the issuer too (R9, R100). -/
  cur : Nat
  /-- MODEL'S OWN. The samples the environment has ready for the sampler, the next one first; when there is none the next
  sample is a free value (R45, log entry 7). -/
  sampler : List Word
  /-- MODEL'S OWN. The moves already fixed, the next one first; when there is none the next move is a free value (R67, log
  entry 5). -/
  agenda : List Move
  /-- MODEL'S OWN. The value the last bus read returned to the host (R62, log entry 9). -/
  busData : Word
  /-- MODEL'S OWN. How many free values have been taken (log entry 6). -/
  fresh : Nat
deriving DecidableEq, Repr, Inhabited

/-- Why the machine stops. No command stops the block (R11). -/
inductive Fault where
  /-- Raised by a transfer agent of a running engine that does not have exactly one active channel: R150 and R151 name "the
  channel with active = 1", which R42 says is one. Safe: `State.Inv` rules it out, and no run from reset meets it. -/
  | channelsIncoherent (e : Eng)
deriving DecidableEq, Repr

/-- Why a step has no meaning. -/
inductive Refusal where
  /-- Answered by an arm of `exec` whose instruction has no meaning yet. Safe: nothing can be proved of that instruction. No arm
  answers it. -/
  | notModelled (mnemonic : String)
deriving DecidableEq, Repr

/-- What a command or a step answers. -/
abbrev Answer := Host.Outcome State Fault Refusal

/-- A port at reset (R31): every register 0, its context free to issue. -/
def Port.reset : Port := ⟨0, 0, 0, 0, 0, .ready⟩

/-- A channel at reset (R38). -/
def Channel.reset : Channel := ⟨false, false, false, 0, false, false⟩

/-- An engine at reset (R37, R39). -/
def Engine.reset : Engine := ⟨false, false, Channel.reset, Channel.reset, [], []⟩

/-- The feeder at reset (R43). -/
def Feeder.reset : Feeder := ⟨false, 0, .a, 0, 0⟩

/-- The state a launch with the parameters `p` starts from (R47, R231, R246). -/
def State.resetWith (p : Params) : State where
  par := p
  ports := List.replicate p.nports Port.reset
  ring := []
  wr := 0
  rd := 0
  starved := false
  overrun := false
  outEng := Engine.reset
  capEng := Engine.reset
  feeder := Feeder.reset
  serialOut := []
  faults := ⟨false, false⟩
  cur := 0
  sampler := []
  agenda := []
  busData := 0
  fresh := 0

/-- The block right after reset, with the default parameters of R5. -/
def State.reset : State := State.resetWith Params.default

end Sys2Proof.Machine
end

