-- ==== Sys2Proof/Machine/Operands.lean ====
section
/-!
DEFINITION. Operand and result forms: samples and words crossing the port (spec 30_encoding R83, R84; 20_memory R65) and the
conversion function (42_format_feeder R173).
-/
namespace Sys2Proof.Machine

open Sys2Proof

/-- The sample `v[W_IN-1:0]`, stored as exactly its `W_IN` low bits (R65, R84). -/
def sampleOf (p : Params) (v : Word) : Word := (v.setWidth p.wIn).setWidth 32

/-- `sext_32` of a sample (R8, R84). -/
def sextSample (p : Params) (s : Word) : Word := (s.setWidth p.wIn).signExtend 32

/-- `widen(s) = (zext_32(s) << K)[31:0]` with `K = 32 - W_IN` (R173). -/
def widen (p : Params) (s : Word) : Word := sampleOf p s <<< (32 - p.wIn)

/-- `cvt(s) = (widen(s), widen(s))` (R173). -/
def convert (p : Params) (s : Word) : Frame := ⟨widen p s, widen p s⟩

/-- The silence frame (R175). -/
def silence : Frame := ⟨0, 0⟩

/-- ARG as an unsigned integer, never sign-extended, scaled or shifted (R83). -/
abbrev argValue (arg : BitVec 16) : Nat := arg.toNat

/-- A count, an index or a capacity as a result word (R84). -/
def countWord (n : Nat) : Word := BitVec.ofNat 32 n

/-- A flag as a result word (R84). -/
def flagWord (b : Bool) : Word := if b then 1 else 0

end Sys2Proof.Machine
end

