-- ==== Sys2Proof/Machine/Ops.lean ====
section
/-!
DEFINITION. The named operations over the block's state: element spaces, ports and completion of a command, the ring, the
channels and the chain trigger, and the free values.
-/
namespace Sys2Proof.Machine

open Sys2Proof

/-! ### Element spaces (spec 20_memory R60, R65) -/

/-- The element at an index. -/
def Memory.read (m : Memory) (i : Nat) : Word :=
  match m with
  | [] => 0
  | c :: rest => if c.1 = i then c.2 else Memory.read rest i

/-- Store an element, keeping the canonical form. -/
def Memory.write (m : Memory) (i : Nat) (v : Word) : Memory :=
  match m with
  | [] => if v = 0 then [] else [(i, v)]
  | c :: rest =>
    if i < c.1 then (if v = 0 then c :: rest else (i, v) :: c :: rest)
    else if c.1 = i then (if v = 0 then rest else (i, v) :: rest)
    else c :: Memory.write rest i v

/-! ### Command ports (10_state R31) -/

/-- The registers of port `p`. -/
def State.port (s : State) (p : Nat) : Port := s.ports.getD p Port.reset

/-- Change the registers of port `p`. -/
def State.setPort (s : State) (p : Nat) (q : Port) : State := { s with ports := s.ports.set p q }

/-- `P.DATA` of the port the command was issued on (R9, R84). -/
def State.data (s : State) : Word := (s.port s.cur).data

/-- The sample operand `DATA[W_IN-1:0]` (R84). -/
def State.sampleOperand (s : State) : Word := sampleOf s.par s.data

/-- A command issued on port `p` completes: RES, RES2 and STAT are written together (R80). -/
def State.completeOn (s : State) (p : Nat) (code : BitVec 8) (res res2 : Word) : State :=
  s.setPort p { s.port p with res := res, res2 := res2, stat := code }

/-- Whether the context of port `p` has a step: its port exists, and no command of its own is in progress, held or stuck (R62,
R80, R177). -/
def State.canIssue (s : State) (p : Nat) : Bool :=
  decide (p < s.ports.length) && decide ((s.port p).issuer = .ready) && !(s.feeder.busy && decide (s.feeder.port = p))

/-! ### Status codes (60_exceptions R200) -/

/-- The status codes that are ever written. -/
inductive Status where
  | ok
  | errIllegal
  | errState
  | errBusy
  | errRange
deriving DecidableEq, Repr

/-- The code of a status (R200). -/
def statusCode : Status → BitVec 8
  | .ok => 0
  | .errIllegal => 1
  | .errState => 2
  | .errBusy => 3
  | .errRange => 4

/-- The command being performed ends with status OK and these results (R11). -/
def finish (s : State) (res res2 : Word) : Answer := .next (s.completeOn s.cur (statusCode .ok) res res2)

/-- `raise Status(code)`: the command ends with an error, RES = RES2 = 0 and nothing else changed (R9, R201). It stands where
another machine takes an exception: the block has no trap (R209). -/
def raiseStatus (s : State) (e : Status) : Answer := .next (s.completeOn s.cur (statusCode e) 0 0)

/-! ### Free values (00_scope R9) -/

/-- The next free word. -/
def State.freeWord (s : State) : Word := Config.freeWord s.fresh

/-- The state after a free value has been taken. -/
def State.drawn (s : State) : State := { s with fresh := s.fresh + 1 }

/-! ### Model faults (60_exceptions R205) -/

/-- `fault SPSC_VIOLATION` when `bad` holds. A mark once made stays (R46). -/
def State.noteSpsc (s : State) (bad : Bool) : State :=
  { s with faults := { s.faults with spscViolation := s.faults.spscViolation || bad } }

/-- `fault MISSED_REARM` when `bad` holds. -/
def State.noteMissed (s : State) (bad : Bool) : State :=
  { s with faults := { s.faults with missedRearm := s.faults.missedRearm || bad } }

/-- The check of a write-side command: its issuer must be `PRODUCER` (R100). -/
def State.writeSide (s : State) : State := s.noteSpsc (decide (s.cur ≠ s.par.producer))

/-- The check of a read-side command: its issuer must be `CONSUMER` (R100). -/
def State.readSide (s : State) : State := s.noteSpsc (decide (s.cur ≠ s.par.consumer))

/-! ### Ring buffer (10_state R34) -/

/-- `length = (wr - rd) mod C`, the mathematical remainder (R8, R34). -/
def State.ringLength (s : State) : Nat := (((s.wr : Int) - (s.rd : Int)) % (s.par.capacity : Int)).toNat

/-- `empty = (rd == wr)` (R34). -/
def State.ringEmpty (s : State) : Bool := s.rd == s.wr

/-- `dist = C - wr` (R34). -/
def State.ringDist (s : State) : Nat := s.par.capacity - s.wr

/-- The write cursor moved on by `n`, modulo `C` (R107). -/
def State.advanceWr (s : State) (n : Nat) : State := { s with wr := (s.wr + n) % s.par.capacity }

/-- The sample a ring read takes: the one at the read cursor, or a draw when the ring is empty (R108). -/
def State.ringSample (s : State) : Word := if s.ringEmpty then sampleOf s.par s.freeWord else s.ring.read s.rd

/-- The state a ring read leaves: the read cursor moved on by one, modulo `C` (R108). -/
def State.afterRingRead (s : State) : State :=
  { (if s.ringEmpty then s.drawn else s) with rd := (s.rd + 1) % s.par.capacity }

/-! ### Engines and channels (10_state R37 to R41, 41_dma_engine R152) -/

/-- `other(X)` (R38). -/
def other : Chan → Chan
  | .a => .b
  | .b => .a

/-- `Ch[e][X]` of an engine. -/
def Engine.ch (g : Engine) : Chan → Channel
  | .a => g.chA
  | .b => g.chB

/-- Change `Ch[e][X]`. -/
def Engine.setCh (g : Engine) (x : Chan) (c : Channel) : Engine :=
  match x with
  | .a => { g with chA := c }
  | .b => { g with chB := c }

/-- `Buf[e][X]` of an engine. -/
def Engine.buf (g : Engine) : Chan → Memory
  | .a => g.bufA
  | .b => g.bufB

/-- Change `Buf[e][X]`. -/
def Engine.setBuf (g : Engine) (x : Chan) (m : Memory) : Engine :=
  match x with
  | .a => { g with bufA := m }
  | .b => { g with bufB := m }

/-- Engine `e`. -/
def State.eng (s : State) : Eng → Engine
  | .out => s.outEng
  | .cap => s.capEng

/-- Change engine `e`. -/
def State.setEng (s : State) (e : Eng) (g : Engine) : State :=
  match e with
  | .out => { s with outEng := g }
  | .cap => { s with capEng := g }

/-- The channel of an engine with `active = 1`, when there is exactly one (R42). -/
def Engine.activeCh (g : Engine) : Option Chan :=
  match g.chA.active, g.chB.active with
  | true, false => some .a
  | false, true => some .b
  | _, _ => none

/-- The number of elements of a buffer: `2 S` words for OUT, `S` samples for CAP (R39). -/
def bufSize (p : Params) : Eng → Nat
  | .out => 2 * p.bufLen
  | .cap => p.bufLen

/-- What DMA_INIT leaves in a channel: configured at the start of its buffer, interrupt enabled (R130). -/
def Channel.configured : Channel :=
  { armed := true, active := false, valid := false, pos := 0, pend := false, ie := true }

/-- A channel that has been triggered: it transfers its buffer if it was armed, garbage if not (R152). -/
def Channel.triggered (c : Channel) : Channel :=
  { c with valid := c.armed, armed := false, active := true, pos := 0 }

/-- A channel whose transfer has completed: its completion signal is set (R152). -/
def Channel.completed (c : Channel) : Channel := { c with active := false, pend := true }

/-- `trigger(e, Y)` (R152): an unarmed channel is a missed re-arm (R153). -/
def State.trigger (s : State) (e : Eng) (y : Chan) : State :=
  let g := s.eng e
  (s.setEng e (g.setCh y (g.ch y).triggered)).noteMissed (!(g.ch y).armed)

/-- `complete(e, X)` (R152): the completion, and the chain's trigger of the other channel. -/
def State.complete (s : State) (e : Eng) (x : Chan) : State :=
  let g := s.eng e
  (s.setEng e (g.setCh x (g.ch x).completed)).trigger e (other x)

end Sys2Proof.Machine
end

