-- ==== Sys2Proof/Machine/Flags.lean ====
section
/-!
DEFINITION. Interrupt lines (spec 10_state R44), sticky bits (R35) and the two status words (R36, R40).
-/
namespace Sys2Proof.Machine

open Sys2Proof

/-- `IRQ[e][X] = Ch[e][X].pend AND Ch[e][X].ie` (R44, R206). -/
def State.irq (s : State) (e : Eng) (x : Chan) : Bool := ((s.eng e).ch x).pend && ((s.eng e).ch x).ie

/-- One bit of a status word. -/
def bit (b : Bool) : BitVec 1 := BitVec.ofBool b

/-- The block status word (R36). -/
def State.blockStatus (s : State) : Word :=
  0#26 ++ bit (s.irq .cap .b) ++ bit (s.irq .cap .a) ++ bit (s.irq .out .b) ++ bit (s.irq .out .a)
    ++ bit s.overrun ++ bit s.starved

/-- POS: the position of the active channel, or 0 if none is active (R40). -/
def Engine.activePos (g : Engine) : Nat :=
  match g.activeCh with
  | some x => (g.ch x).pos
  | none => 0

/-- The engine status word (R40). -/
def Engine.status (g : Engine) : Word :=
  BitVec.ofNat 16 g.activePos ++ 0#6 ++ bit g.chB.ie ++ bit g.chA.ie ++ bit g.chB.pend ++ bit g.chA.pend
    ++ bit g.chB.armed ++ bit g.chA.armed ++ bit g.chB.active ++ bit g.chA.active ++ bit g.run ++ bit g.inited

/-- The overrun condition of an advance by `n`: more than the free space `C - 1 - length` (R107, R110). -/
def State.overruns (s : State) (n : Nat) : Bool := decide (s.par.capacity - 1 - s.ringLength < n)

/-- `OVERRUN <- 1` on an overrun, when `OVERRUN_DETECT` is true (R35, R107). -/
def State.noteOverrun (s : State) (n : Nat) : State :=
  { s with overrun := s.overrun || (s.par.overrunDetect && s.overruns n) }

/-- `STARVED <- 1` when `bad` holds (R35, R179). -/
def State.noteStarved (s : State) (bad : Bool) : State := { s with starved := s.starved || bad }

/-- Clear STARVED by bit 0 and OVERRUN by bit 1 of the mask (R172). -/
def State.clearSticky (s : State) (m : BitVec 16) : State :=
  { s with starved := s.starved && !m.getLsbD 0, overrun := s.overrun && !m.getLsbD 1 }

end Sys2Proof.Machine
end

