-- ==== Sys2Proof/Machine/Control.lean ====
section
/-!
DEFINITION. Block control commands (spec 42_format_feeder R170 to R172) and the performance of an illegal word (30_encoding R88).
-/
namespace Sys2Proof.Machine

open Sys2Proof

/-- NOP (R170). -/
def execNop (s : State) : Answer := finish s 0 0

/-- BLK_STATUS (R171): reading clears nothing. -/
def execBlkStatus (s : State) : Answer := finish s s.blockStatus 0

/-- BLK_CLEAR (R172): the interrupt lines are not cleared here. -/
def execBlkClear (m : BitVec 16) (s : State) : Answer := finish (s.clearSticky m) 0 0

/-- A word that decodes to ILLEGAL completes with ERR_ILLEGAL and changes nothing else (R88). -/
def performIllegal (s : State) : Answer := raiseStatus s .errIllegal

end Sys2Proof.Machine
end

