-- ==== Sys2Proof/Machine/Convert.lean ====
section
/-!
DEFINITION. The converter command CVT and the output feeder: FEED's start step, its element steps and its two ends (spec
42_format_feeder R174, R177 to R179).
-/
namespace Sys2Proof.Machine

open Sys2Proof

/-- CVT (R174). -/
def execCvt (s : State) : Answer :=
  let f := convert s.par s.sampleOperand
  finish s f.left f.right

/-- FEED's issuer waits on its port (R177 `hold`). -/
def State.hold (s : State) (x : Chan) : State := s.setPort s.cur { s.port s.cur with issuer := .holding x }

/-- The feeder as FEED's start step leaves it: the number of real samples is fixed once, from one read of the length (R177). -/
def State.startFeed (s : State) (x : Chan) : State :=
  { s with feeder := { busy := true, port := s.cur, ch := x, n := min s.par.bufLen s.ringLength, i := 0 } }

/-- FEED, its start step (R177). The command completes with the feeder's last element step (R80, R179). -/
def execFeed (x : Chan) (s : State) : Answer :=
  let s := s.readSide
  if s.feeder.busy then .next (s.hold x)
  else if (s.outEng.ch x).active then raiseStatus s .errBusy
  else .next (s.startFeed x)

/-- Write frame `i` of an output buffer: words `2i` and `2i + 1` (R39, R178). -/
def writeFrame (m : Memory) (i : Nat) (f : Frame) : Memory := (m.write (2 * i) f.left).write (2 * i + 1) f.right

/-- Frame `i` of an output buffer (R39, R75). -/
def readFrame (m : Memory) (i : Nat) : Frame := ⟨m.read (2 * i), m.read (2 * i + 1)⟩

/-- The frame an element step writes: a converted ring sample while real samples are left, silence after them (R178). -/
def State.feedFrame (s : State) : Frame :=
  if s.feeder.i < s.feeder.n then convert s.par s.ringSample else silence

/-- The ring after an element step: one read while real samples are left, none after them (R178). -/
def State.afterFeedRead (s : State) : State :=
  if s.feeder.i < s.feeder.n then s.afterRingRead else s

/-- The element step proper: the frame is stored and `feed_i` counts it (R178). -/
def State.feedElement (s : State) : State :=
  let t := s.afterFeedRead
  let x := s.feeder.ch
  let g := t.outEng
  { t with
    outEng := g.setBuf x (writeFrame (g.buf x) s.feeder.i s.feedFrame)
    feeder := { s.feeder with i := s.feeder.i + 1 } }

/-- FEED's normal end (R179). -/
def State.feedEnd (s : State) : State :=
  let f := s.feeder
  let short := decide (f.n < s.par.bufLen)
  (({ s with feeder := { f with busy := false } } : State).noteStarved short).completeOn f.port (statusCode .ok)
    (countWord f.n) (flagWord short)

/-- FEED's abort: the elements done stay done, and the ring samples consumed are returned (R179). -/
def State.feedAbort (s : State) : State :=
  let f := s.feeder
  ({ s with feeder := { f with busy := false } } : State).completeOn f.port (statusCode .errBusy)
    (countWord (min f.i f.n)) 0

/-- One step of the feeder sub-agent, enabled while `feed_busy = 1` (R178). -/
def State.feederStep (s : State) : State :=
  if (s.outEng.ch s.feeder.ch).active then s.feedAbort
  else if s.feeder.i + 1 = s.par.bufLen then s.feedElement.feedEnd
  else s.feedElement

end Sys2Proof.Machine
end

