-- ==== Sys2Proof/Machine/Dma.lean ====
section
/-!
DEFINITION. Commands of the double-buffered DMA engines (spec 41_dma_engine R130 to R136). Checks stand in the order of R202.
-/
namespace Sys2Proof.Machine

open Sys2Proof

/-- What DMA_INIT leaves in an engine that is not running (R130). -/
def Engine.initialised (g : Engine) : Engine :=
  { g with inited := true, chA := Channel.configured, chB := Channel.configured, bufA := [], bufB := [] }

/-- DMA_INIT (R130). -/
def execDmaInit (e : Eng) (s : State) : Answer :=
  if (s.eng e).run then raiseStatus s .errState
  else finish (s.setEng e (s.eng e).initialised) 0 0

/-- `RUN[e] <- 1` (R131). -/
def State.setRun (s : State) (e : Eng) : State := s.setEng e { s.eng e with run := true }

/-- DMA_START (R131): the chain begins from buffer A. -/
def execDmaStart (e : Eng) (s : State) : Answer :=
  if !(s.eng e).inited || (s.eng e).run then raiseStatus s .errState
  else finish ((s.trigger e .a).setRun e) 0 0

/-- DMA_ARM (R132): only a whole-buffer length is legal. -/
def execDmaArm (e : Eng) (x : Chan) (len : BitVec 16) (s : State) : Answer :=
  let g := s.eng e
  if !g.inited then raiseStatus s .errState
  else if (g.ch x).active then raiseStatus s .errBusy
  else if argValue len ≠ s.par.bufLen then raiseStatus s .errRange
  else finish (s.setEng e (g.setCh x { g.ch x with armed := true })) 0 0

/-- DMA_ACK (R133): the completion signal is read and cleared, which deasserts its line. -/
def execDmaAck (e : Eng) (x : Chan) (s : State) : Answer :=
  let g := s.eng e
  finish (s.setEng e (g.setCh x { g.ch x with pend := false })) (flagWord (g.ch x).pend) 0

/-- DMA_STATUS (R134): reading has no side effect. -/
def execDmaStatus (e : Eng) (s : State) : Answer := finish s (s.eng e).status 0

/-- The value BUF_WRITE stores: a word in an OUT buffer, a sample in a CAP buffer (R84, R135). -/
def State.bufOperand (s : State) : Eng → Word
  | .out => s.data
  | .cap => s.sampleOperand

/-- BUF_WRITE (R135): refused while the buffer is in flight. -/
def execBufWrite (e : Eng) (x : Chan) (i : BitVec 16) (s : State) : Answer :=
  let g := s.eng e
  if (g.ch x).active then raiseStatus s .errBusy
  else if bufSize s.par e ≤ argValue i then raiseStatus s .errRange
  else finish (s.setEng e (g.setBuf x ((g.buf x).write (argValue i) (s.bufOperand e)))) 0 0

/-- The result of BUF_READ for an element: a word of an OUT buffer as itself, a sample of a CAP buffer sign-extended (R84,
R136). -/
def bufResult (p : Params) (e : Eng) (v : Word) : Word :=
  match e with
  | .out => v
  | .cap => sextSample p v

/-- BUF_READ (R136): refused while the buffer is in flight. -/
def execBufRead (e : Eng) (x : Chan) (i : BitVec 16) (s : State) : Answer :=
  let g := s.eng e
  if (g.ch x).active then raiseStatus s .errBusy
  else if bufSize s.par e ≤ argValue i then raiseStatus s .errRange
  else finish s (bufResult s.par e ((g.buf x).read (argValue i))) 0

end Sys2Proof.Machine
end

