-- ==== Sys2Proof/Machine/Ring.lean ====
section
/-!
DEFINITION. Ring buffer commands (spec 40_ring_buffer R100 to R108).
-/
namespace Sys2Proof.Machine

open Sys2Proof

/-- RB_CAPACITY (R101). -/
def execRbCapacity (s : State) : Answer := finish s (countWord s.par.capacity) 0

/-- RB_LENGTH (R102). -/
def execRbLength (s : State) : Answer := finish s (countWord s.ringLength) 0

/-- RB_EMPTY (R103). -/
def execRbEmpty (s : State) : Answer := finish s (flagWord s.ringEmpty) 0

/-- RB_WRITE_HEAD (R104). -/
def execRbWriteHead (s : State) : Answer := finish s (countWord s.wr) 0

/-- RB_DIST_WRAP (R105). -/
def execRbDistWrap (s : State) : Answer := finish s (countWord s.ringDist) 0

/-- RB_STORE (R106): `wr` does not move, and an unread sample is overwritten without a refusal. -/
def execRbStore (j : BitVec 16) (s : State) : Answer :=
  let s := s.writeSide
  if s.ringDist ≤ argValue j then raiseStatus s .errRange
  else finish { s with ring := s.ring.write (s.wr + argValue j) s.sampleOperand } 0 0

/-- RB_ADVANCE_WRITE (R107): never an error, whatever the count; the overrun condition is that of the state before. -/
def execRbAdvanceWrite (n : BitVec 16) (s : State) : Answer :=
  finish ((s.writeSide.noteOverrun (argValue n)).advanceWr (argValue n)) 0 0

/-- RB_READ_ONE (R108): on an empty ring the value is a draw, and the cursor still advances. -/
def execRbReadOne (s : State) : Answer :=
  let s := s.readSide
  finish s.afterRingRead (sextSample s.par s.ringSample) 0

end Sys2Proof.Machine
end

