-- ==== Sys2Proof/Machine/Dispatch.lean ====
section
/-!
DEFINITION. What each command does when it is performed: one meaning per row of the opcode map (spec 30_encoding R86).
-/
namespace Sys2Proof.Machine

open Sys2Proof

def exec (i : Instr) (s : State) : Host.Outcome State Fault Refusal :=
  match i with
  | .nop => Sys2Proof.Machine.execNop s
  | .blkStatus => Sys2Proof.Machine.execBlkStatus s
  | .blkClear m => Sys2Proof.Machine.execBlkClear m s
  | .rbCapacity => Sys2Proof.Machine.execRbCapacity s
  | .rbLength => Sys2Proof.Machine.execRbLength s
  | .rbEmpty => Sys2Proof.Machine.execRbEmpty s
  | .rbWriteHead => Sys2Proof.Machine.execRbWriteHead s
  | .rbDistWrap => Sys2Proof.Machine.execRbDistWrap s
  | .rbStore j => Sys2Proof.Machine.execRbStore j s
  | .rbAdvanceWrite n => Sys2Proof.Machine.execRbAdvanceWrite n s
  | .rbReadOne => Sys2Proof.Machine.execRbReadOne s
  | .dmaInit e => Sys2Proof.Machine.execDmaInit e s
  | .dmaStart e => Sys2Proof.Machine.execDmaStart e s
  | .dmaArm e x len => Sys2Proof.Machine.execDmaArm e x len s
  | .dmaAck e x => Sys2Proof.Machine.execDmaAck e x s
  | .dmaStatus e => Sys2Proof.Machine.execDmaStatus e s
  | .bufWrite e x k => Sys2Proof.Machine.execBufWrite e x k s
  | .bufRead e x k => Sys2Proof.Machine.execBufRead e x k s
  | .cvt => Sys2Proof.Machine.execCvt s
  | .feed x => Sys2Proof.Machine.execFeed x s

end Sys2Proof.Machine
end

