-- ==== Sys2Proof/Machine/Transfer.lean ====
section
/-!
DEFINITION. The element steps of the two transfer agents (spec 41_dma_engine R150, R151).
-/
namespace Sys2Proof.Machine

open Sys2Proof

/-- `emit(l, r)` (R9, R45). -/
def State.emit (s : State) (f : Frame) : State := { s with serialOut := s.serialOut ++ [f] }

/-- The frame engine OUT emits: the buffer's for a valid transfer, two draws for garbage (R150). -/
def State.outFrame (s : State) (x : Chan) : Frame :=
  if (s.outEng.ch x).valid then readFrame (s.outEng.buf x) (s.outEng.ch x).pos
  else ⟨s.freeWord, s.drawn.freeWord⟩

/-- The free values an element step of OUT takes: two for garbage, none otherwise (R150). -/
def State.afterOutDraw (s : State) (x : Chan) : State :=
  if (s.outEng.ch x).valid then s else s.drawn.drawn

/-- The sample the sampler gives next: its low `W_IN` bits (R45, R151). -/
def State.nextSample (s : State) : Word :=
  match s.sampler with
  | v :: _ => sampleOf s.par v
  | [] => sampleOf s.par s.freeWord

/-- The state after the sampler has given a sample. -/
def State.afterSample (s : State) : State :=
  match s.sampler with
  | _ :: rest => { s with sampler := rest }
  | [] => s.drawn

/-- A capture buffer after a sample: stored by a valid transfer, dropped otherwise (R151). -/
def State.captured (s : State) (x : Chan) : Memory :=
  let g := s.capEng
  if (g.ch x).valid then (g.buf x).write (g.ch x).pos s.nextSample else g.buf x

/-- `pos <- p + 1`, and the completion when the transfer has its last element (R150, R151). -/
def State.advancePos (s : State) (e : Eng) (x : Chan) : State :=
  let c := (s.eng e).ch x
  let t := s.setEng e ((s.eng e).setCh x { c with pos := c.pos + 1 })
  if c.pos + 1 = s.par.bufLen then t.complete e x else t

/-- Engine OUT's element step on its active channel (R150). -/
def State.outElement (s : State) (x : Chan) : State :=
  (((s.afterOutDraw x).emit (s.outFrame x)).advancePos .out x)

/-- Engine CAP's element step on its active channel (R151). -/
def State.capElement (s : State) (x : Chan) : State :=
  let t := s.afterSample
  ({ t with capEng := t.capEng.setBuf x (s.captured x) } : State).advancePos .cap x

/-- An element step of engine `e` on channel `x`. -/
def State.element (s : State) (e : Eng) (x : Chan) : State :=
  match e with
  | .out => s.outElement x
  | .cap => s.capElement x

/-- One step of the transfer agent of a running engine (R150, R151). -/
def transferStep (e : Eng) (s : State) : Answer :=
  match (s.eng e).activeCh with
  | some x => .next (s.element e x)
  | none => .fault (.channelsIncoherent e)

end Sys2Proof.Machine
end

