-- ==== Sys2Proof/Machine/Moves.lean ====
section
/-!
DEFINITION. How the agents move: issuing a command on a port (spec 30_encoding R80), the host bus accesses (20_memory R61 to
R64), the lifting of a hold (42_format_feeder R177), and the choice of the next move (00_scope R10, 20_memory R67).
-/
namespace Sys2Proof.Machine

open Sys2Proof

/-! ### Issuing a command (R80) -/

/-- The writes to `P.DATA` (when there is an operand to write) and to `P.CMD` that issue a command on port `p` (R80). -/
def State.issued (s : State) (p : Nat) (data : Option Word) (w : Word) : State :=
  { s.setPort p { s.port p with cmd := w, data := data.getD (s.port p).data } with cur := p }

/-- The command word is decoded and performed; an illegal word completes with ERR_ILLEGAL (R87, R88). -/
def performWord (w : Word) (s : State) : Answer :=
  match decode w with
  | .ok i => exec i s
  | .error _ => performIllegal s

/-! ### Host bus accesses (R61, R62) -/

/-- `ceil(log2 n)` for `n ≥ 1`. -/
def ceilLog2 (n : Nat) : Nat := if n ≤ 1 then 0 else Nat.log2 (n - 1) + 1

/-- `BASE`, a multiple of `0x20 · 2^ceil(log2 NPORTS)` (R61). -/
def busBase (p : Params) : Nat := Config.baseUnit * (0x20 * 2 ^ ceilLog2 p.nports)

/-- The bus address of offset `off` in port `q` (R61). -/
def portAddress (p : Params) (q off : Nat) : Nat := busBase p + 0x20 * q + off

/-- The accesses the block supports: 32-bit, at a word-aligned address of its window (R62). -/
def busAccepts (p : Params) (width addr : Nat) : Bool :=
  decide (width = 4) && decide (addr % 4 = 0) && decide (busBase p ≤ addr) && decide (addr < busBase p + 0x20 * p.nports)

/-- The port an address of the window lies in (R62). -/
def busPort (p : Params) (addr : Nat) : Nat := (addr - busBase p) / 0x20

/-- The offset of an address in its port (R62). -/
def busOffset (p : Params) (addr : Nat) : Nat := (addr - busBase p) % 0x20

/-- What a read at an offset of a port returns; CMD and the reserved offsets read 0 (R62). -/
def Port.readReg (q : Port) (off : Nat) : Word :=
  if off = 0x04 then q.data
  else if off = 0x08 then q.res
  else if off = 0x0C then q.res2
  else if off = 0x10 then q.stat.setWidth 32
  else 0

/-- `MemRead(a, 4)` (R62): no side effect on the block (R63). -/
def State.memRead (s : State) (addr : Nat) : Word := (s.port (busPort s.par addr)).readReg (busOffset s.par addr)

/-- `MemWrite(a, 4, v)` by the context that owns the port (R62): a write to CMD issues a command, a write to DATA is kept, any
other write has no effect. -/
def memWrite (p off : Nat) (v : Word) (s : State) : Answer :=
  if off = 0x00 then performWord v (s.issued p none v)
  else if off = 0x04 then .next (s.setPort p { s.port p with data := v })
  else .next s

/-- The context of port `p` has no further step (R62). -/
def State.stick (s : State) (p : Nat) : State := s.setPort p { s.port p with issuer := .stuck }

/-! ### Moves -/

/-- The hold on the FEED of port `p` is lifted: the command is performed now (R177, R179). -/
def State.released (s : State) (p : Nat) : State := { s.setPort p { s.port p with issuer := .ready } with cur := p }

/-- A transaction move; a context that has no step is passed over (R80, log entry 5). -/
def commandMove (p : Nat) (data : Option Word) (w : Word) (s : State) : Answer :=
  if s.canIssue p then performWord w (s.issued p data w) else .next s

/-- A bus write move. An access the block does not support leaves its context stuck; a write to another context's port is no
move (R62, R217). -/
def busWriteMove (p width addr : Nat) (v : Word) (s : State) : Answer :=
  if !s.canIssue p then .next s
  else if !busAccepts s.par width addr then .next (s.stick p)
  else if busPort s.par addr ≠ p then .next s
  else memWrite p (busOffset s.par addr) v s

/-- A bus read move: the value goes to the host, the block is unchanged (R62, R63). -/
def busReadMove (p width addr : Nat) (s : State) : Answer :=
  if !s.canIssue p then .next s
  else if !busAccepts s.par width addr then .next (s.stick p)
  else .next { s with busData := s.memRead addr }

/-- The port's context has a FEED that is held (R177). -/
def Port.isHolding (q : Port) : Bool :=
  match q.issuer with
  | .holding _ => true
  | .ready => false
  | .stuck => false

/-- The move of a held FEED, enabled once no FEED is in progress (R177, R179). -/
def resumeMove (p : Nat) (s : State) : Answer :=
  match (s.port p).issuer with
  | .holding x => if s.feeder.busy then .next s else exec (.feed x) (s.released p)
  | _ => .next s

/-- A move of the feeder sub-agent, enabled while `feed_busy = 1` (R178). -/
def feederMove (s : State) : Answer := .next (if s.feeder.busy then s.feederStep else s)

/-- A move of a transfer agent, enabled while `RUN[e] = 1` (R150, R151). -/
def transferMove (e : Eng) (s : State) : Answer := if (s.eng e).run then transferStep e s else .next s

/-- One atomic step of the agent a move names; an agent that has no step is passed over (R10, R66, log entry 5). -/
def performMove (m : Move) (s : State) : Answer :=
  match m with
  | .command p data w => commandMove p data w s
  | .busWrite p width addr v => busWriteMove p width addr v s
  | .busRead p width addr => busReadMove p width addr s
  | .resume p => resumeMove p s
  | .feeder => feederMove s
  | .transfer e => transferMove e s

/-- The move that comes next: the first of the agenda, or a free choice (R67, log entry 5). -/
def State.nextMove (s : State) : Move :=
  match s.agenda with
  | m :: _ => m
  | [] => Config.freeMove s.fresh

/-- The state in which `m` is the next move (log entry 5). -/
def State.placed (s : State) (m : Move) : State := { s with agenda := m :: s.agenda }

/-- The move is an enabled step of its agent (R10): a context that can issue makes a transaction, or an access the block accepts and,
for a write, on its own port; a held FEED goes on once no FEED is in progress (R177, R179); the feeder moves while `feed_busy = 1`
(R178), a transfer agent while `RUN[e] = 1` (R150, R151). An access the block does not support has no step (R62). -/
def State.enables (s : State) (m : Move) : Bool :=
  match m with
  | .command p _ _ => s.canIssue p
  | .busWrite p width addr _ => s.canIssue p && busAccepts s.par width addr && decide (busPort s.par addr = p)
  | .busRead p width addr => s.canIssue p && busAccepts s.par width addr
  | .resume p => !s.feeder.busy && (s.port p).isHolding
  | .feeder => s.feeder.busy
  | .transfer e => (s.eng e).run

/-- The state once the next move has been taken from the agenda, or its free value used. -/
def State.moveTaken (s : State) : State :=
  match s.agenda with
  | _ :: rest => { s with agenda := rest }
  | [] => s.drawn

/-- The first port whose context can issue a command; port 0 when none can. -/
def State.freePort (s : State) : Nat := ((List.range s.ports.length).find? fun p => s.canIssue p).getD 0

end Sys2Proof.Machine
end

