-- ==== Sys2Proof/Machine/Step.lean ====
section
/-!
DEFINITION. One step of the machine: the next move of the agenda, or a free one, is performed (spec 00_scope R10, 20_memory R67).
-/
namespace Sys2Proof.Machine

open Sys2Proof

/-- One atomic step of one agent (R66, R67). -/
def step (s : State) : Host.Outcome State Fault Refusal := performMove s.nextMove s.moveTaken

/-- The state in which the next step issues the command word `w` (its bits above `nbits` zero), on the first port whose context
can issue one. The block fetches nothing (R73): commands come from the host, through the agenda (log entry 5). -/
def State.withFetchWord (s : State) (nbits w : Nat) : State :=
  s.placed (.command s.freePort none (BitVec.ofNat 32 (w % 2 ^ nbits)))

end Sys2Proof.Machine
end

