-- ==== Sys2Proof/Machine/Pseudo.lean ====
section
/-!
DEFINITION. The pseudo-instructions: host-side sequences of commands, each defined only by its expansion (spec 30_encoding R91 to
R94). The block has no opcode for them.
-/
namespace Sys2Proof.Machine

open Sys2Proof

/-- One line of a host sequence: a command, with the data operand it writes first (R90). -/
structure Issue where
  instr : Instr
  data : Option Word
deriving DecidableEq, Repr

/-- A command that takes no data operand. -/
def Issue.plain (i : Instr) : Issue := ⟨i, none⟩

/-- A 16-bit argument. -/
def arg16 (n : Nat) : BitVec 16 := BitVec.ofNat 16 n

/-- The stores of one phase of a PUSH_BLOCK, from offset `j` on (R91). -/
def pushStores (j : Nat) (v : List Word) : List Issue :=
  match v with
  | [] => []
  | w :: rest => ⟨.rbStore (arg16 j), some w⟩ :: pushStores (j + 1) rest

/-- One phase of a PUSH_BLOCK of `v` when `d` samples fit before the wrap (R91). -/
def pushPhase (d : Nat) (v : List Word) : List Issue :=
  Issue.plain .rbDistWrap :: pushStores 0 (v.take d) ++ [Issue.plain (.rbAdvanceWrite (arg16 (min v.length d)))]

/-- PUSH_BLOCK with at most `fuel` phases; `d` is what the first RB_DIST_WRAP returns, and a later one returns `C`, since the
phase before it ended at the wrap point (R91). -/
def pushPhases (fuel C d : Nat) (v : List Word) : List Issue :=
  match fuel with
  | 0 => []
  | k + 1 => if v.isEmpty then [] else pushPhase d v ++ pushPhases k C C (v.drop d)

/-- `PUSH_BLOCK v` from the write cursor of `s` (R91): every phase stores at least one sample, so `v.length` phases are enough. -/
def pushBlock (s : State) (v : List Word) : List Issue := pushPhases v.length s.par.capacity s.ringDist v

/-- `OUT_SERVICE.X` (R92). -/
def outService (p : Params) (x : Chan) : List Issue :=
  [.plain (.dmaAck .out x), .plain (.feed x), .plain (.dmaArm .out x (arg16 p.bufLen))]

/-- `CAP_SERVICE.X` (R93). -/
def capService (p : Params) (x : Chan) : List Issue :=
  .plain (.dmaAck .cap x) :: (List.range p.bufLen).map (fun i => .plain (.bufRead .cap x (arg16 i)))
    ++ [.plain (.dmaArm .cap x (arg16 p.bufLen))]

/-- `BOOT_OUT`, with or without the optional priming FEEDs (R94, R233). -/
def bootOut (prime : Bool) : List Issue :=
  .plain (.dmaInit .out) :: (if prime then [.plain (.feed .a), .plain (.feed .b)] else []) ++ [.plain (.dmaStart .out)]

/-- `BOOT_CAP` (R94, R233). -/
def bootCap : List Issue := [.plain (.dmaInit .cap), .plain (.dmaStart .cap)]

/-- The context of port `p` issues a sequence with no other agent's step between: one of the orders R67 allows. It is for
sequences without FEED, whose end takes the feeder's steps (R80). -/
def runIssues (p : Nat) (l : List Issue) (s : State) : Answer :=
  match l with
  | [] => .next s
  | c :: rest =>
    match exec c.instr (s.issued p c.data (encode c.instr)) with
    | .next t => runIssues p rest t
    | .fault r => .fault r
    | .refused r => .refused r

end Sys2Proof.Machine
end

