-- ==== Sys2Proof/Safety.lean ====
section
/-!
DEFINITION. What claims are stated with: the block's invariant, the premise "no fault recorded", what a command may change, runs,
weak fairness and the clean launch (70_reset_and_hazards R245 to R247), and the ring's unread samples.
-/
namespace Sys2Proof.Machine

open Sys2Proof

/-- A channel's position is in range, and a channel that transfers is not armed (R38, R132, R152). -/
def Channel.Inv (S : Nat) (c : Channel) : Prop :=
  c.pos ≤ S ∧ (c.active = true → c.pos < S ∧ c.armed = false)

/-- The engine invariant: R42, the positions, `RUN` only after `INIT`, and both channels armed between DMA_INIT and DMA_START
(R131). -/
structure Engine.Inv (S : Nat) (g : Engine) : Prop where
  chA : g.chA.Inv S
  chB : g.chB.Inv S
  running : g.run = true → g.inited = true ∧ g.chA.active ≠ g.chB.active
  idle : g.run = false → g.chA.active = false ∧ g.chB.active = false
  ready : g.run = false → g.inited = true → g.chA.armed = true ∧ g.chB.armed = true
  disabled : g.inited = false → g.chA.armed = false ∧ g.chB.armed = false

/-- The element spaces of R60 hold only elements of their size and width, in canonical form. -/
structure State.MemInv (s : State) : Prop where
  ringWf : s.ring.wf = true
  ringFits : s.ring.fits s.par.capacity s.par.wIn = true
  bufWf : ∀ e x, ((s.eng e).buf x).wf = true
  outFits : ∀ x, (s.outEng.buf x).fits (bufSize s.par .out) 32 = true
  capFits : ∀ x, (s.capEng.buf x).fits (bufSize s.par .cap) s.par.wIn = true

/-- The feeder's progress: counts in range while a FEED is in progress (R43, R177, R178). -/
structure State.FeedInv (s : State) : Prop where
  port : s.feeder.busy = true → s.feeder.port < s.par.nports
  count : s.feeder.n ≤ s.par.bufLen
  done : s.feeder.busy = true → s.feeder.i < s.par.bufLen

/-- The block's invariant: legal parameters (R5), the ports (R31, R200), the cursor ranges (R109), both engines (R42), the element
spaces (R65), the feeder (R43), and OVERRUN never set without OVERRUN_DETECT (R35). -/
structure State.Inv (s : State) : Prop where
  legal : s.par.legal = true
  ports : s.ports.length = s.par.nports
  cur : s.cur < s.par.nports
  codes : ∀ q ∈ s.ports, q.stat.toNat ≤ 4
  wr : s.wr < s.par.capacity
  rd : s.rd < s.par.capacity
  outEng : s.outEng.Inv s.par.bufLen
  capEng : s.capEng.Inv s.par.bufLen
  mem : s.MemInv
  feed : s.FeedInv
  overrun : s.par.overrunDetect = false → s.overrun = false

/-- The command word as R81 spells it: `ARG<<16 | ENG<<9 | CH<<8 | OP`. -/
def commandWord (arg : BitVec 16) (e : Eng) (x : Chan) (op : BitVec 8) : Word :=
  arg.setWidth 32 <<< 16 ||| (engBit e).setWidth 32 <<< 9 ||| (chBit x).setWidth 32 <<< 8 ||| op.setWidth 32

/-- No fault recorded (R46): the premise a claim takes when it needs the host's duties kept. -/
def State.noFault (s : State) : Prop := s.faults = ⟨false, false⟩

/-- The command being performed on `s` answers the state `t` with this status and these results, written together (R80). -/
def Answers (s t : State) (code : Status) (res res2 : Word) : Prop :=
  (t.port s.cur).stat = statusCode code ∧ (t.port s.cur).res = res ∧ (t.port s.cur).res2 = res2

/-- No port changes but in the result registers of the issuing one: CMD and DATA, and every other port, are as they were
(R31). -/
def PortsKept (s t : State) : Prop :=
  t.ports.length = s.ports.length ∧
  (∀ p, p ≠ s.cur → t.port p = s.port p) ∧
  (t.port s.cur).cmd = (s.port s.cur).cmd ∧ (t.port s.cur).data = (s.port s.cur).data ∧
  (t.port s.cur).issuer = (s.port s.cur).issuer

/-- Nothing changes but the result registers of the issuing port. -/
def OnlyResults (s t : State) : Prop := t = { s with ports := t.ports } ∧ PortsKept s t

/-- A ring command's issuer has been checked against the agent that owns its side: SPSC_VIOLATION is recorded if it is another,
and no mark is ever removed (R100, R205). -/
def SpscChecked (s t : State) (side : Nat) : Prop :=
  t.faults.missedRearm = s.faults.missedRearm ∧
  (t.faults.spscViolation = true ↔ s.faults.spscViolation = true ∨ s.cur ≠ side)

/-- Nothing changes but engine `e`, and the issuing port's result registers. -/
def OnlyEngine (e : Eng) (s t : State) : Prop :=
  t = { s with ports := t.ports, outEng := t.outEng, capEng := t.capEng } ∧ (∀ f, f ≠ e → t.eng f = s.eng f) ∧ PortsKept s t

/-- Nothing of engine `e` changes but channel `x`. -/
def OnlyChannel (e : Eng) (x : Chan) (s t : State) : Prop :=
  (t.eng e).inited = (s.eng e).inited ∧ (t.eng e).run = (s.eng e).run ∧
  (t.eng e).ch (other x) = (s.eng e).ch (other x) ∧ ∀ y, (t.eng e).buf y = (s.eng e).buf y

/-- A trigger of channel `y` of engine `e`, seen from before and after (R152): it runs, from position 0, valid exactly if it was
armed. -/
def Triggered (e : Eng) (y : Chan) (s t : State) : Prop :=
  (t.eng e).ch y = { (s.eng e).ch y with valid := ((s.eng e).ch y).armed, armed := false, active := true, pos := 0 }

/-- What an element step of engine `e` does to its channels, the active one being `x` (R150 to R153): `pos` counts the element;
the last element of the buffer completes the transfer, sets the completion signal and triggers the other channel, and a trigger
of a channel that is not armed is a missed re-arm. -/
def ElementCounted (e : Eng) (x : Chan) (s t : State) : Prop :=
  (t.eng e).inited = (s.eng e).inited ∧ (t.eng e).run = (s.eng e).run ∧
  (((s.eng e).ch x).pos + 1 ≠ s.par.bufLen →
    (t.eng e).ch x = { (s.eng e).ch x with pos := ((s.eng e).ch x).pos + 1 } ∧
    (t.eng e).ch (other x) = (s.eng e).ch (other x) ∧ t.faults = s.faults) ∧
  (((s.eng e).ch x).pos + 1 = s.par.bufLen →
    (t.eng e).ch x = { (s.eng e).ch x with pos := s.par.bufLen, active := false, pend := true } ∧
    Triggered e (other x) s t ∧
    t.faults.spscViolation = s.faults.spscViolation ∧
    (t.faults.missedRearm = true ↔ s.faults.missedRearm = true ∨ ((s.eng e).ch (other x)).armed = false))

/-! ### Runs (R10, R67, R245, R247) -/

/-- The agents that take the block's steps (R10). -/
inductive Agent where
  /-- The software context that owns port `p`. -/
  | context (p : Nat)
  /-- The feeder sub-agent of a FEED in progress. -/
  | feeder
  /-- The transfer agent of engine `e`. -/
  | transfer (e : Eng)
deriving DecidableEq, Repr

/-- Whose step a move is. -/
def agentOf (m : Move) : Agent :=
  match m with
  | .command p _ _ => .context p
  | .busWrite p _ _ _ => .context p
  | .busRead p _ _ => .context p
  | .resume p => .context p
  | .feeder => .feeder
  | .transfer e => .transfer e

/-- An infinite run and the moves it makes: each state is a step from the one before. The agenda is the model's schedule and no state
of the block, so it may be set anew before each step: a run is any interleaving of moves (R67, log entry 16). A run in the sense of
R247 is a finite prefix of one. -/
def IsRun (moves : Nat → Move) (r : Nat → State) : Prop :=
  ∀ k, ∃ l, ({ r k with agenda := l } : State).nextMove = moves k ∧ step { r k with agenda := l } = .next (r (k + 1))

/-- The agent has an enabled step: some move of its own is enabled. -/
def State.enabled (s : State) (a : Agent) : Prop := ∃ m, agentOf m = a ∧ s.enables m = true

/-- Weak fairness (R245): an agent that has an enabled step from some point on eventually takes one. To take one is to make a move
that is enabled where it is made: a move of the agent that is passed over does not count (log entry 16). -/
def WeaklyFair (moves : Nat → Move) (r : Nat → State) : Prop :=
  ∀ (a : Agent) (n : Nat), (∀ k, n ≤ k → (r k).enabled a) →
    ∃ k, n ≤ k ∧ agentOf (moves k) = a ∧ (r k).enables (moves k) = true

/-! ### The start of a run (R246) -/

/-- A clean launch (R246): the reset state of R47 with legal parameters (R5), no fault recorded, nothing in flight, every line
deasserted, nothing sent, and `PRODUCER` and `CONSUMER` fixed, each with its own port. What the environment will do (the agenda, the
sampler, the free values) is open. -/
structure CleanLaunch (s : State) : Prop where
  legal : s.par.legal = true
  fromReset : s = { State.resetWith s.par with agenda := s.agenda, sampler := s.sampler, fresh := s.fresh }
  noFault : s.noFault
  stopped : ∀ e, (s.eng e).run = false
  noChannel : ∀ e x, ((s.eng e).ch x).active = false ∧ ((s.eng e).ch x).armed = false
  noFeed : s.feeder.busy = false
  noneStalled : ∀ p, p < s.par.nports → s.canIssue p = true
  lines : ∀ e x, s.irq e x = false
  silent : s.serialOut = []
  roles : s.par.ownPorts = true

/-- The unread samples, oldest first: the ring as the queue it stands for (R34, R69). -/
def State.unread (s : State) : List Word :=
  (List.range s.ringLength).map fun k => s.ring.read ((s.rd + k) % s.par.capacity)

end Sys2Proof.Machine
end

