-- ==== Sys2Proof/Certificates/Slice0/Obligations.lean ====
section
/-!
DEFINITION. The statements about the block, for the provers. "The command completes" is written: for every state whose issuing
port exists, `exec` answers `next t`, and `t` is as the rule says. A frame is written as an equation of states, so that it covers
every field, every port and every element of every memory.
-/
open Sys2Proof Sys2Proof.Machine

/-! ### Encoding and decoding (30_encoding) -/

/-- O1. Words written out from the spec's encodings decode to the commands they stand for (R90, V-ENC, P1 to P4). -/
def Obligations.SpecWordsDecode : Prop :=
  decode 0x00050015#32 = .ok (.rbStore 5) ∧ decode 0x00300122#32 = .ok (.dmaArm .out .b 48) ∧
  decode 0x00000131#32 = .ok (.feed .b) ∧ decode 0x00030002#32 = .ok (.blkClear 3) ∧
  decode 0x00010226#32 = .ok (.bufRead .cap .a 1) ∧
  ∀ w ∈ [0x00000003#32, 0x00000410#32, 0x00010010#32, 0x00000231#32, 0x00000120#32, 0x00040002#32, 0x00038002#32,
    0x000000FF#32], ∀ i, decode w ≠ .ok i

/-- O2. Every well-formed instruction, with every operand value, is what its command word decodes to. -/
def Obligations.DecodeOfEncode : Prop := ∀ i : Instr, i.wellFormed = true → decode (encode i) = .ok i

/-- O3. A word that decodes is the command word of the instruction it decodes to, which is well-formed: no bit of a legal word is
dropped, and no command has a second spelling. -/
def Obligations.EncodeOfDecode : Prop :=
  ∀ (w : Word) (i : Instr), decode w = .ok i → i.wellFormed = true ∧ encode i = w

/-- O4 (R87). Decoding is total by the map's rows: a word that a row covers decodes to that row's command, a word that no row
covers is illegal, and at most one row covers a word. -/
def Obligations.DecodeByOneRow : Prop :=
  ∀ w : Word,
    (∀ r ∈ opcodeTable, w &&& r.mask = r.pat → decode w = .ok (r.build w)) ∧
    ((∀ r ∈ opcodeTable, w &&& r.mask ≠ r.pat) → ∃ why, decode w = .error why) ∧
    (∀ r ∈ opcodeTable, ∀ q ∈ opcodeTable, w &&& r.mask = r.pat → w &&& q.mask = q.pat → r.pat = q.pat)

/-- O5 (R88). The illegal words: an OP outside the map, a nonzero RSV, a bit set that the row fixes to 0. An illegal word
completes with ERR_ILLEGAL, RES = RES2 = 0, and nothing else changes. -/
def Obligations.IllegalWordRefused : Prop :=
  (∀ w : Word,
    ((0x03#8 ≤ opField w ∧ opField w ≤ 0x0F#8) ∨ (0x18#8 ≤ opField w ∧ opField w ≤ 0x1F#8) ∨
      (0x27#8 ≤ opField w ∧ opField w ≤ 0x2F#8) ∨ 0x32#8 ≤ opField w ∨ rsvField w ≠ 0 ∨
      (∃ r ∈ opcodeTable, opField r.pat = opField w ∧
        ∃ k, r.mask.getLsbD k = true ∧ r.pat.getLsbD k = false ∧ w.getLsbD k = true)) →
    ∃ why, decode w = .error why) ∧
  (∀ (s : State) (w : Word) (why : Reject), s.cur < s.ports.length → decode w = .error why →
    ∃ t, performWord w s = .next t ∧ Answers s t .errIllegal 0 0 ∧ OnlyResults s t)

/-- O6. A step whose next move is a transaction of a context that can issue runs the decoded instruction, on the state in which
CMD holds the word, DATA the operand if one was written, and `cur` names the port. -/
def Obligations.StepRunsDecoded : Prop :=
  ∀ (s : State) (p : Nat) (data : Option Word) (w : Word) (rest : List Move) (i : Instr),
    s.agenda = .command p data w :: rest → s.canIssue p = true → decode w = .ok i →
    ∃ u, step s = exec i u ∧
      u = { s with agenda := rest, cur := p, ports := u.ports } ∧ u.ports.length = s.ports.length ∧
      u.port p = { s.port p with cmd := w, data := data.getD (s.port p).data } ∧ ∀ k, k ≠ p → u.port k = s.port k

/-! ### Block control (42_format_feeder) -/

/-- O7 (R170). -/
def Obligations.NopCompletes : Prop :=
  decode 0x00000000#32 = .ok .nop ∧
  ∀ s : State, s.cur < s.ports.length → ∃ t, exec .nop s = .next t ∧ Answers s t .ok 0 0 ∧ OnlyResults s t

/-- O8 (R171, layout R36): bits [1:0] sticky, [5:2] the interrupt lines, the rest 0; reading clears nothing. -/
def Obligations.BlkStatusReadsLines : Prop :=
  decode 0x00000001#32 = .ok .blkStatus ∧
  ∀ s : State, s.cur < s.ports.length → ∃ t r, exec .blkStatus s = .next t ∧ Answers s t .ok r 0 ∧ OnlyResults s t ∧
    r.getLsbD 0 = s.starved ∧ r.getLsbD 1 = s.overrun ∧
    r.getLsbD 2 = (s.outEng.chA.pend && s.outEng.chA.ie) ∧ r.getLsbD 3 = (s.outEng.chB.pend && s.outEng.chB.ie) ∧
    r.getLsbD 4 = (s.capEng.chA.pend && s.capEng.chA.ie) ∧ r.getLsbD 5 = (s.capEng.chB.pend && s.capEng.chB.ie) ∧
    ∀ k, 6 ≤ k → r.getLsbD k = false

/-- O9 (R172). -/
def Obligations.BlkClearClearsSticky : Prop :=
  (∀ m : BitVec 16, m.toNat < 4 → decode (commandWord m .out .a 0x02) = .ok (.blkClear m)) ∧
  (∀ m : BitVec 16, 4 ≤ m.toNat → ∃ why, decode (commandWord m .out .a 0x02) = .error why) ∧
  ∀ (s : State) (m : BitVec 16), s.cur < s.ports.length → ∃ t, exec (.blkClear m) s = .next t ∧ Answers s t .ok 0 0 ∧
    (m.getLsbD 0 = true → t.starved = false) ∧ (m.getLsbD 0 = false → t.starved = s.starved) ∧
    (m.getLsbD 1 = true → t.overrun = false) ∧ (m.getLsbD 1 = false → t.overrun = s.overrun) ∧
    t = { s with ports := t.ports, starved := t.starved, overrun := t.overrun } ∧ PortsKept s t

/-! ### Ring buffer (40_ring_buffer) -/

/-- O10 (R101): the capacity is returned, and it is constant: no step changes a parameter. -/
def Obligations.RbCapacityCompletes : Prop :=
  decode 0x00000010#32 = .ok .rbCapacity ∧
  (∀ s : State, s.cur < s.ports.length → s.par.capacity ≤ 65535 →
    ∃ t r, exec .rbCapacity s = .next t ∧ Answers s t .ok r 0 ∧ r.toNat = s.par.capacity ∧ OnlyResults s t) ∧
  ∀ s t : State, step s = .next t → t.par = s.par

/-- O11 (R102, R34): `write - read` when ahead, `capacity - (read - write)` when lapped. -/
def Obligations.RbLengthCountsUnread : Prop :=
  decode 0x00000011#32 = .ok .rbLength ∧
  ∀ s : State, s.cur < s.ports.length → s.par.capacity ≤ 65535 → s.wr < s.par.capacity → s.rd < s.par.capacity →
    ∃ t r, exec .rbLength s = .next t ∧ Answers s t .ok r 0 ∧ OnlyResults s t ∧
      r.toNat = (if s.rd ≤ s.wr then s.wr - s.rd else s.par.capacity - (s.rd - s.wr)) ∧
      r.toNat ≤ s.par.capacity - 1 ∧ (r.toNat = 0 ↔ s.rd = s.wr)

/-- O12 (R103). -/
def Obligations.RbEmptyTestsCursors : Prop :=
  decode 0x00000012#32 = .ok .rbEmpty ∧
  ∀ s : State, s.cur < s.ports.length → ∃ t r, exec .rbEmpty s = .next t ∧ Answers s t .ok r 0 ∧ OnlyResults s t ∧
    (s.rd = s.wr → r = 1) ∧ (s.rd ≠ s.wr → r = 0)

/-- O13 (R104). -/
def Obligations.RbWriteHeadReadsCursor : Prop :=
  decode 0x00000013#32 = .ok .rbWriteHead ∧
  ∀ s : State, s.cur < s.ports.length → s.par.capacity ≤ 65535 → s.wr < s.par.capacity →
    ∃ t r, exec .rbWriteHead s = .next t ∧ Answers s t .ok r 0 ∧ r.toNat = s.wr ∧ OnlyResults s t

/-- O14 (R105). -/
def Obligations.RbDistWrapReadsRoom : Prop :=
  decode 0x00000014#32 = .ok .rbDistWrap ∧
  ∀ s : State, s.cur < s.ports.length → s.par.capacity ≤ 65535 → s.wr < s.par.capacity →
    ∃ t r, exec .rbDistWrap s = .next t ∧ Answers s t .ok r 0 ∧ r.toNat = s.par.capacity - s.wr ∧
      1 ≤ r.toNat ∧ r.toNat ≤ s.par.capacity ∧ OnlyResults s t

/-- O15 (R106): below the wrap point the sample is stored at `wr + j` and no other element changes; at or past it the store is
refused with ERR_RANGE and writes nothing. -/
def Obligations.RbStoreWritesOrRefuses : Prop :=
  (∀ j : BitVec 16, decode (commandWord j .out .a 0x15) = .ok (.rbStore j)) ∧
  ∀ (s : State) (j : BitVec 16), s.cur < s.ports.length → s.ring.wf = true →
    ∃ t, exec (.rbStore j) s = .next t ∧ SpscChecked s t s.par.producer ∧ PortsKept s t ∧
      t = { s with ports := t.ports, ring := t.ring, faults := t.faults } ∧
      (s.par.capacity - s.wr ≤ j.toNat → Answers s t .errRange 0 0 ∧ t.ring = s.ring) ∧
      (j.toNat < s.par.capacity - s.wr → Answers s t .ok 0 0 ∧
        t.ring.read (s.wr + j.toNat) = ((s.port s.cur).data.setWidth s.par.wIn).setWidth 32 ∧
        ∀ k, k ≠ s.wr + j.toNat → t.ring.read k = s.ring.read k)

/-- O16 (R107): never an error; OVERRUN is set exactly on an overrun under OVERRUN_DETECT. -/
def Obligations.RbAdvanceWriteCommits : Prop :=
  (∀ n : BitVec 16, decode (commandWord n .out .a 0x16) = .ok (.rbAdvanceWrite n)) ∧
  ∀ (s : State) (n : BitVec 16), s.cur < s.ports.length →
    ∃ t, exec (.rbAdvanceWrite n) s = .next t ∧ Answers s t .ok 0 0 ∧ SpscChecked s t s.par.producer ∧ PortsKept s t ∧
      t.wr = (s.wr + n.toNat) % s.par.capacity ∧
      (t.overrun = true ↔ s.overrun = true ∨
        (s.par.overrunDetect = true ∧ s.par.capacity - 1 - s.ringLength < n.toNat)) ∧
      t = { s with ports := t.ports, wr := t.wr, overrun := t.overrun, faults := t.faults }

/-- O17 (R108): the sample at the read cursor, sign-extended; on an empty ring a draw `v`, of which this says nothing; the cursor
advances in both cases. -/
def Obligations.RbReadOneAdvances : Prop :=
  decode 0x00000017#32 = .ok .rbReadOne ∧
  ∀ s : State, s.cur < s.ports.length →
    ∃ t v, exec .rbReadOne s = .next t ∧ Answers s t .ok ((v.setWidth s.par.wIn : BitVec s.par.wIn).signExtend 32) 0 ∧
      SpscChecked s t s.par.consumer ∧ PortsKept s t ∧
      (s.rd ≠ s.wr → v = s.ring.read s.rd ∧ t.fresh = s.fresh) ∧ t.rd = (s.rd + 1) % s.par.capacity ∧
      t = { s with ports := t.ports, rd := t.rd, faults := t.faults, fresh := t.fresh }

/-- O18. The ring is a queue: a read of a ring that is not empty returns the oldest unread sample and leaves the others, in
order (R69, R111). -/
def Obligations.ReadTakesOldestUnread : Prop :=
  ∀ (s : State) (v : Word) (rest : List Word), s.cur < s.ports.length → s.wr < s.par.capacity → s.rd < s.par.capacity →
    s.unread = v :: rest →
    ∃ t, exec .rbReadOne s = .next t ∧ (t.port s.cur).res = (v.setWidth s.par.wIn : BitVec s.par.wIn).signExtend 32 ∧
      t.unread = rest

/-- O19. The ring is a queue: an advance that does not overrun adds the next `n` slots behind the unread samples, in order, and
loses none (R107, R110). -/
def Obligations.AdvanceAppendsCommitted : Prop :=
  ∀ (s : State) (n : BitVec 16), s.cur < s.ports.length → s.wr < s.par.capacity → s.rd < s.par.capacity →
    n.toNat ≤ s.par.capacity - 1 - s.ringLength →
    ∃ t, exec (.rbAdvanceWrite n) s = .next t ∧
      t.unread = s.unread ++ (List.range n.toNat).map fun k => s.ring.read ((s.wr + k) % s.par.capacity)

/-- O20. The ring is a queue: a store at an offset below the free room leaves every unread sample as it was (R106). -/
def Obligations.StoreKeepsUnread : Prop :=
  ∀ (s t : State) (j : BitVec 16), s.wr < s.par.capacity → s.rd < s.par.capacity →
    j.toNat < s.par.capacity - s.ringLength → exec (.rbStore j) s = .next t → t.unread = s.unread

/-- O21 (R112). A PUSH_BLOCK of at most `C` samples, issued with no other step between, leaves `v[i]` at `(w0 + i) mod C`, every
other element as it was, and `wr` moved on by `N`: the split at the wrap point shows nowhere. `pushBlock` and `runIssues` are the
model's reading of a host sequence (log entry 17, DEDUCED). -/
def Obligations.PushBlockSplitsAtWrap : Prop :=
  ∀ (s : State) (p : Nat) (v : List Word), s.Inv → p < s.par.nports → v.length ≤ s.par.capacity →
    ∃ t, runIssues p (pushBlock s v) s = .next t ∧ t.wr = (s.wr + v.length) % s.par.capacity ∧
      (∀ i (h : i < v.length),
        t.ring.read ((s.wr + i) % s.par.capacity) = (v[i].setWidth s.par.wIn : BitVec s.par.wIn).setWidth 32) ∧
      ∀ k, (∀ i, i < v.length → k ≠ (s.wr + i) % s.par.capacity) → t.ring.read k = s.ring.read k

/-! ### DMA engines (41_dma_engine) -/

/-- O22 (R130): refused while the engine runs; otherwise both channels are armed from the start of cleared buffers, with nothing
pending and the interrupt enabled, and the other engine is untouched. -/
def Obligations.DmaInitConfigures : Prop :=
  decode 0x00000020#32 = .ok (.dmaInit .out) ∧ decode 0x00000220#32 = .ok (.dmaInit .cap) ∧
  ∀ (s : State) (e : Eng), s.cur < s.ports.length → ∃ t, exec (.dmaInit e) s = .next t ∧
    ((s.eng e).run = true → Answers s t .errState 0 0 ∧ OnlyResults s t) ∧
    ((s.eng e).run = false → Answers s t .ok 0 0 ∧ OnlyEngine e s t ∧
      (t.eng e).inited = true ∧ (t.eng e).run = false ∧
      ∀ x, (t.eng e).ch x = ⟨true, false, false, 0, false, true⟩ ∧ ∀ k, ((t.eng e).buf x).read k = 0)

/-- O23 (R131): refused before DMA_INIT or while running; otherwise channel A is triggered and the engine runs. It records a
missed re-arm only if channel A is not armed, which the engine invariant rules out. -/
def Obligations.DmaStartTriggersA : Prop :=
  decode 0x00000021#32 = .ok (.dmaStart .out) ∧ decode 0x00000221#32 = .ok (.dmaStart .cap) ∧
  ∀ (s : State) (e : Eng), s.cur < s.ports.length → ∃ t, exec (.dmaStart e) s = .next t ∧
    ((s.eng e).inited = false ∨ (s.eng e).run = true → Answers s t .errState 0 0 ∧ OnlyResults s t) ∧
    ((s.eng e).inited = true → (s.eng e).run = false →
      Answers s t .ok 0 0 ∧ PortsKept s t ∧ (t.eng e).inited = true ∧ (t.eng e).run = true ∧ Triggered e .a s t ∧
      (t.eng e).ch .b = (s.eng e).ch .b ∧ (∀ y, (t.eng e).buf y = (s.eng e).buf y) ∧ (∀ f, f ≠ e → t.eng f = s.eng f) ∧
      (t.faults.missedRearm = true ↔ s.faults.missedRearm = true ∨ ((s.eng e).ch .a).armed = false) ∧
      t.faults.spscViolation = s.faults.spscViolation ∧ ((s.eng e).Inv s.par.bufLen → t.faults = s.faults) ∧
      t = { s with ports := t.ports, outEng := t.outEng, capEng := t.capEng, faults := t.faults })

/-- O24 (R132, R202): ERR_STATE before DMA_INIT, then ERR_BUSY in flight, then ERR_RANGE for a length other than `S`; otherwise
the channel is armed and nothing else changes. -/
def Obligations.DmaArmChecksInOrder : Prop :=
  (∀ e x len, decode (commandWord len e x 0x22) = .ok (.dmaArm e x len)) ∧
  ∀ (s : State) (e : Eng) (x : Chan) (len : BitVec 16), s.cur < s.ports.length →
    ∃ t, exec (.dmaArm e x len) s = .next t ∧
      (if (s.eng e).inited = false then Answers s t .errState 0 0 ∧ OnlyResults s t
       else if ((s.eng e).ch x).active = true then Answers s t .errBusy 0 0 ∧ OnlyResults s t
       else if len.toNat ≠ s.par.bufLen then Answers s t .errRange 0 0 ∧ OnlyResults s t
       else Answers s t .ok 0 0 ∧ OnlyEngine e s t ∧ OnlyChannel e x s t ∧
         (t.eng e).ch x = { (s.eng e).ch x with armed := true })

/-- O25 (R133): the completion signal is returned and cleared, which deasserts the channel's line. -/
def Obligations.DmaAckTakesCompletion : Prop :=
  (∀ e x, decode (commandWord 0 e x 0x23) = .ok (.dmaAck e x)) ∧
  ∀ (s : State) (e : Eng) (x : Chan), s.cur < s.ports.length → ∃ t r, exec (.dmaAck e x) s = .next t ∧
    Answers s t .ok r 0 ∧ (((s.eng e).ch x).pend = true → r = 1) ∧ (((s.eng e).ch x).pend = false → r = 0) ∧
    OnlyEngine e s t ∧ OnlyChannel e x s t ∧ (t.eng e).ch x = { (s.eng e).ch x with pend := false } ∧ t.irq e x = false

/-- O26 (R134, layout R40). -/
def Obligations.DmaStatusReadsEngine : Prop :=
  decode 0x00000024#32 = .ok (.dmaStatus .out) ∧ decode 0x00000224#32 = .ok (.dmaStatus .cap) ∧
  ∀ (s : State) (e : Eng), s.cur < s.ports.length → ∃ t r, exec (.dmaStatus e) s = .next t ∧ Answers s t .ok r 0 ∧
    OnlyResults s t ∧ r.getLsbD 0 = (s.eng e).inited ∧ r.getLsbD 1 = (s.eng e).run ∧
    r.getLsbD 2 = ((s.eng e).ch .a).active ∧ r.getLsbD 3 = ((s.eng e).ch .b).active ∧
    r.getLsbD 4 = ((s.eng e).ch .a).armed ∧ r.getLsbD 5 = ((s.eng e).ch .b).armed ∧
    r.getLsbD 6 = ((s.eng e).ch .a).pend ∧ r.getLsbD 7 = ((s.eng e).ch .b).pend ∧
    r.getLsbD 8 = ((s.eng e).ch .a).ie ∧ r.getLsbD 9 = ((s.eng e).ch .b).ie ∧
    (∀ k, 10 ≤ k → k ≤ 15 → r.getLsbD k = false) ∧
    (∀ x, ((s.eng e).ch x).active = true → ((s.eng e).ch (other x)).active = false → ((s.eng e).ch x).pos < 65536 →
      (r.extractLsb' 16 16).toNat = ((s.eng e).ch x).pos) ∧
    (((s.eng e).ch .a).active = false → ((s.eng e).ch .b).active = false → r.extractLsb' 16 16 = 0)

/-- O27 (R135): refused in flight and past the end; otherwise the word, or the sample in a capture buffer, is stored at the index
and no other element changes. -/
def Obligations.BufWriteStoresOwned : Prop :=
  (∀ e x i, decode (commandWord i e x 0x25) = .ok (.bufWrite e x i)) ∧
  ∀ (s : State) (e : Eng) (x : Chan) (i : BitVec 16), s.cur < s.ports.length → ((s.eng e).buf x).wf = true →
    ∃ t, exec (.bufWrite e x i) s = .next t ∧
      (if ((s.eng e).ch x).active = true then Answers s t .errBusy 0 0 ∧ OnlyResults s t
       else if (if e = .out then 2 * s.par.bufLen else s.par.bufLen) ≤ i.toNat then
         Answers s t .errRange 0 0 ∧ OnlyResults s t
       else Answers s t .ok 0 0 ∧ OnlyEngine e s t ∧ (t.eng e).inited = (s.eng e).inited ∧
         (t.eng e).run = (s.eng e).run ∧ (∀ y, (t.eng e).ch y = (s.eng e).ch y) ∧
         (t.eng e).buf (other x) = (s.eng e).buf (other x) ∧
         ((t.eng e).buf x).read i.toNat =
           (if e = .out then (s.port s.cur).data
            else ((s.port s.cur).data.setWidth s.par.wIn : BitVec s.par.wIn).setWidth 32) ∧
         ∀ k, k ≠ i.toNat → ((t.eng e).buf x).read k = ((s.eng e).buf x).read k)

/-- O28 (R136): refused in flight and past the end; otherwise the element is returned, a capture sample sign-extended, and nothing
else changes. -/
def Obligations.BufReadReturnsOwned : Prop :=
  (∀ e x i, decode (commandWord i e x 0x26) = .ok (.bufRead e x i)) ∧
  ∀ (s : State) (e : Eng) (x : Chan) (i : BitVec 16), s.cur < s.ports.length →
    ∃ t, exec (.bufRead e x i) s = .next t ∧ OnlyResults s t ∧
      (if ((s.eng e).ch x).active = true then Answers s t .errBusy 0 0
       else if (if e = .out then 2 * s.par.bufLen else s.par.bufLen) ≤ i.toNat then Answers s t .errRange 0 0
       else Answers s t .ok
         (if e = .out then ((s.eng e).buf x).read i.toNat
          else ((((s.eng e).buf x).read i.toNat).setWidth s.par.wIn : BitVec s.par.wIn).signExtend 32) 0)

/-- O29 (R150): an element step of engine OUT emits the buffer's frame when the transfer is valid, and two draws, of which this says
nothing, when it is not; then it counts the element, with the completion of R152 after the last. The buffers are not written. -/
def Obligations.OutElementEmits : Prop :=
  ∀ (s : State) (x : Chan), s.outEng.run = true → s.outEng.activeCh = some x →
    ∃ t f, performMove (.transfer .out) s = .next t ∧ t.serialOut = s.serialOut ++ [f] ∧
      ((s.outEng.ch x).valid = true →
        f = ⟨(s.outEng.buf x).read (2 * (s.outEng.ch x).pos), (s.outEng.buf x).read (2 * (s.outEng.ch x).pos + 1)⟩ ∧
        t.fresh = s.fresh) ∧
      ElementCounted .out x s t ∧ (∀ y, t.outEng.buf y = s.outEng.buf y) ∧
      t = { s with outEng := t.outEng, serialOut := t.serialOut, faults := t.faults, fresh := t.fresh }

/-- O30 (R151, R152): an element step of engine CAP stores the sampler's next sample when the transfer is valid and drops it when
it is not, then counts the element. -/
def Obligations.CapElementCaptures : Prop :=
  ∀ (s : State) (x : Chan), s.capEng.run = true → s.capEng.activeCh = some x → (s.capEng.buf x).wf = true →
    ∃ t v, performMove (.transfer .cap) s = .next t ∧
      (∀ r rest, s.sampler = r :: rest → v = r ∧ t.sampler = rest ∧ t.fresh = s.fresh) ∧
      (s.sampler = [] → v = Config.freeWord s.fresh ∧ t.sampler = [] ∧ t.fresh = s.fresh + 1) ∧
      ((s.capEng.ch x).valid = true → ∀ k, (t.capEng.buf x).read k =
        if k = (s.capEng.ch x).pos then (v.setWidth s.par.wIn : BitVec s.par.wIn).setWidth 32 else (s.capEng.buf x).read k) ∧
      ((s.capEng.ch x).valid = false → t.capEng.buf x = s.capEng.buf x) ∧
      t.capEng.buf (other x) = s.capEng.buf (other x) ∧ ElementCounted .cap x s t ∧
      t = { s with capEng := t.capEng, sampler := t.sampler, faults := t.faults, fresh := t.fresh }

/-- O31. A whole valid transfer of engine OUT, from its start and with no other agent's step between, emits exactly the buffer's
`S` frames in order, then signals its completion and hands over to the other channel (R150, R152, R181). The steps are placed by the
model's agenda (log entry 5, DESIGN CHOICE). -/
def Obligations.TransferSendsBuffer : Prop :=
  ∀ (s : State) (x : Chan) (rest : List Move), s.Inv → s.outEng.run = true → s.outEng.activeCh = some x →
    (s.outEng.ch x).valid = true → (s.outEng.ch x).pos = 0 →
    ∃ t, core.run s.par.bufLen { s with agenda := List.replicate s.par.bufLen (.transfer .out) ++ rest } = .next t ∧
      t.serialOut = s.serialOut ++ (List.range s.par.bufLen).map (readFrame (s.outEng.buf x)) ∧
      t.outEng.activeCh = some (other x) ∧ (t.outEng.ch x).pend = true ∧ (t.outEng.ch (other x)).pos = 0 ∧
      (∀ y, t.outEng.buf y = s.outEng.buf y) ∧ t.agenda = rest

/-- O32 (R154). Alternation: a step of the machine leaves a running engine's active channel as it was, or completes it, at its
last element, and makes the other one active; a completion signal is set in no other way. -/
def Obligations.CompletionsAlternate : Prop :=
  ∀ (s t : State) (e : Eng) (x : Chan), s.Inv → (s.eng e).run = true → (s.eng e).activeCh = some x → step s = .next t →
    ((t.eng e).activeCh = some x ∧
      ∀ y, ((t.eng e).ch y).pend = true → ((s.eng e).ch y).pend = true) ∨
    ((t.eng e).activeCh = some (other x) ∧ ((s.eng e).ch x).pos + 1 = s.par.bufLen ∧ ((t.eng e).ch x).pend = true ∧
      ((t.eng e).ch (other x)).pos = 0 ∧
      (((t.eng e).ch (other x)).pend = true → ((s.eng e).ch (other x)).pend = true))

/-- O33 (R41, R155). No command and no feeder step writes a buffer in flight. -/
def Obligations.InFlightBufferUntouched : Prop :=
  ∀ (s t : State) (e : Eng) (x : Chan), s.Inv → ((s.eng e).ch x).active = true →
    ((∃ i, exec i s = .next t) ∨ (s.feeder.busy = true ∧ performMove .feeder s = .next t)) →
    (t.eng e).buf x = (s.eng e).buf x

/-- O34 (R153). After a missed re-arm the chain goes on: the trigger of a channel that is not armed records MISSED_REARM and
starts a transfer that is not valid. -/
def Obligations.MissedRearmRecorded : Prop :=
  ∀ (s : State) (e : Eng) (x : Chan), (s.eng e).run = true → (s.eng e).activeCh = some x →
    ((s.eng e).ch x).pos + 1 = s.par.bufLen → ((s.eng e).ch (other x)).armed = false →
    ∃ t, performMove (.transfer e) s = .next t ∧ t.faults.missedRearm = true ∧
      (t.eng e).activeCh = some (other x) ∧ ((t.eng e).ch (other x)).valid = false

/-! ### Converter and feeder (42_format_feeder) -/

/-- O35 (R174). -/
def Obligations.CvtDuplicatesWidened : Prop :=
  decode 0x00000030#32 = .ok .cvt ∧
  ∀ s : State, s.cur < s.ports.length → ∃ t r, exec .cvt s = .next t ∧ Answers s t .ok r r ∧ OnlyResults s t ∧
    r = ((s.port s.cur).data.setWidth s.par.wIn : BitVec s.par.wIn).setWidth 32 <<< (32 - s.par.wIn)

/-- O36 (R173). The two spellings of `widen` agree, and the widened sample, read as a signed number, is the sample times
`2^K`. -/
def Obligations.WidenScalesSigned : Prop :=
  ∀ (p : Params) (v : Word), 1 ≤ p.wIn → p.wIn ≤ 32 →
    convert p v = ⟨widen p v, widen p v⟩ ∧ widen p v = sextSample p v <<< (32 - p.wIn) ∧
    (widen p v).toInt = (v.setWidth p.wIn : BitVec p.wIn).toInt * 2 ^ (32 - p.wIn) ∧ convert p 0 = silence

/-- O37 (R177). FEED's start step: the issuer waits while another FEED is in progress; a buffer in flight is refused; otherwise
the count of real samples is fixed by one read of the length, and the command goes on in the feeder. FEED with ENG = 1 is
illegal. -/
def Obligations.FeedStarts : Prop :=
  (∀ x, decode (commandWord 0 .out x 0x31) = .ok (.feed x)) ∧
  (∀ x, ∃ why, decode (commandWord 0 .cap x 0x31) = .error why) ∧
  ∀ (s : State) (x : Chan), s.cur < s.ports.length → ∃ t, exec (.feed x) s = .next t ∧ SpscChecked s t s.par.consumer ∧
    (s.feeder.busy = true → t = { s with ports := t.ports, faults := t.faults } ∧
      t.port s.cur = { s.port s.cur with issuer := .holding x } ∧ ∀ p, p ≠ s.cur → t.port p = s.port p) ∧
    (s.feeder.busy = false → (s.outEng.ch x).active = true →
      Answers s t .errBusy 0 0 ∧ PortsKept s t ∧ t = { s with ports := t.ports, faults := t.faults }) ∧
    (s.feeder.busy = false → (s.outEng.ch x).active = false →
      t.feeder = ⟨true, s.cur, x, min s.par.bufLen s.ringLength, 0⟩ ∧ t = { s with feeder := t.feeder, faults := t.faults })

/-- O38 (R178). An element step of the feeder. A buffer found in flight ends the FEED and is not written. Otherwise one frame is
written: the converted sample at the read cursor (a draw `v` if the ring has become empty) while real samples are left, silence after
them; no other frame, and nothing of the channels, changes. -/
def Obligations.FeederWritesFrame : Prop :=
  ∀ s : State, s.feeder.busy = true → (s.outEng.buf s.feeder.ch).wf = true →
    ∃ t v, performMove .feeder s = .next t ∧
      ((s.outEng.ch s.feeder.ch).active = true →
        t = { s with ports := t.ports, feeder := { s.feeder with busy := false } }) ∧
      ((s.outEng.ch s.feeder.ch).active = false →
        (s.feeder.i < s.feeder.n →
          t.rd = (s.rd + 1) % s.par.capacity ∧
          (s.rd ≠ s.wr → v = s.ring.read s.rd ∧ t.fresh = s.fresh)) ∧
        (s.feeder.n ≤ s.feeder.i → t.rd = s.rd ∧ t.fresh = s.fresh) ∧
        (∀ k, readFrame (t.outEng.buf s.feeder.ch) k =
          if k = s.feeder.i then (if s.feeder.i < s.feeder.n then convert s.par v else ⟨0, 0⟩)
          else readFrame (s.outEng.buf s.feeder.ch) k) ∧
        t.outEng.buf (other s.feeder.ch) = s.outEng.buf (other s.feeder.ch) ∧ (∀ y, t.outEng.ch y = s.outEng.ch y) ∧
        t.outEng.inited = s.outEng.inited ∧ t.outEng.run = s.outEng.run ∧
        t.feeder = { s.feeder with i := s.feeder.i + 1, busy := decide (s.feeder.i + 1 ≠ s.par.bufLen) } ∧
        (s.feeder.i + 1 ≠ s.par.bufLen → t.ports = s.ports ∧ t.starved = s.starved) ∧
        t = { s with ports := t.ports, rd := t.rd, starved := t.starved, outEng := t.outEng, feeder := t.feeder,
                     fresh := t.fresh })

/-- O39 (R179). A FEED's two ends: after the last element the command completes OK with the count of real samples, and STARVED is
set if they were fewer than `S`; a buffer found in flight aborts it with ERR_BUSY and the count of samples consumed. -/
def Obligations.FeedEndsOrAborts : Prop :=
  ∀ s : State, s.feeder.busy = true → s.feeder.port < s.ports.length →
    ∃ t, performMove .feeder s = .next t ∧
      ((s.outEng.ch s.feeder.ch).active = false → s.feeder.i + 1 = s.par.bufLen →
        t.feeder.busy = false ∧
        t.port s.feeder.port = { s.port s.feeder.port with
          res := BitVec.ofNat 32 s.feeder.n, res2 := if s.feeder.n < s.par.bufLen then 1 else 0, stat := 0 } ∧
        (∀ p, p ≠ s.feeder.port → t.port p = s.port p) ∧
        (t.starved = true ↔ s.starved = true ∨ s.feeder.n < s.par.bufLen)) ∧
      ((s.outEng.ch s.feeder.ch).active = true →
        t.port s.feeder.port = { s.port s.feeder.port with
          res := BitVec.ofNat 32 (min s.feeder.i s.feeder.n), res2 := 0, stat := 3 } ∧
        (∀ p, p ≠ s.feeder.port → t.port p = s.port p) ∧
        t = { s with ports := t.ports, feeder := { s.feeder with busy := false } })

/-- O40 (R180). Starvation to silence: a FEED that runs to its end with no other agent's step between fills its buffer with the
converted unread samples, oldest first, and silence after them, reads exactly that many samples, and completes OK with their
count and the starvation signal. The steps are placed by the model's agenda (log entry 5, DESIGN CHOICE). -/
def Obligations.FeedFillsWithSilence : Prop :=
  ∀ (s : State) (x : Chan) (rest : List Move), s.Inv → s.feeder.busy = false → (s.outEng.ch x).active = false →
    ∃ u t, exec (.feed x) s = .next u ∧
      core.run s.par.bufLen { u with agenda := List.replicate s.par.bufLen .feeder ++ rest } = .next t ∧
      (∀ k, k < s.par.bufLen → readFrame (t.outEng.buf x) k =
        if k < s.ringLength then convert s.par (s.ring.read ((s.rd + k) % s.par.capacity)) else ⟨0, 0⟩) ∧
      t.rd = (s.rd + min s.par.bufLen s.ringLength) % s.par.capacity ∧ t.fresh = s.fresh ∧ t.feeder.busy = false ∧
      (t.port s.cur).stat = 0 ∧ (t.port s.cur).res = BitVec.ofNat 32 (min s.par.bufLen s.ringLength) ∧
      (t.port s.cur).res2 = (if s.ringLength < s.par.bufLen then 1 else 0) ∧
      (t.starved = true ↔ s.starved = true ∨ s.ringLength < s.par.bufLen) ∧ t.agenda = rest

/-! ### The whole machine -/

/-- O41 (R47). What reset leaves, for every parameter value; the state after reset is that of the default parameters. -/
def Obligations.ResetLeavesZero : Prop :=
  State.reset = State.resetWith Params.default ∧
  ∀ p : Params, let s := State.resetWith p
    s.par = p ∧ s.ports.length = p.nports ∧
    (∀ k, (s.port k).cmd = 0 ∧ (s.port k).data = 0 ∧ (s.port k).res = 0 ∧ (s.port k).res2 = 0 ∧ (s.port k).stat = 0) ∧
    (∀ k, s.ring.read k = 0) ∧ s.wr = 0 ∧ s.rd = 0 ∧ s.starved = false ∧ s.overrun = false ∧
    (∀ e, (s.eng e).inited = false ∧ (s.eng e).run = false ∧
      ∀ x, (s.eng e).ch x = ⟨false, false, false, 0, false, false⟩ ∧ (∀ k, ((s.eng e).buf x).read k = 0) ∧
        s.irq e x = false) ∧
    s.feeder = ⟨false, 0, .a, 0, 0⟩ ∧ s.serialOut = [] ∧ s.noFault

/-- O42. The invariant holds after reset, for every legal parameter value. -/
def Obligations.ResetMeetsInvariant : Prop := ∀ p : Params, p.legal = true → (State.resetWith p).Inv

/-- O43. Every step keeps the invariant: cursors in range (R109), at most one active channel and exactly one while running
(R42), positions in range, memories in canonical form and within size and width (R65), status codes 0 to 4 (R200). -/
def Obligations.StepKeepsInvariant : Prop := ∀ s t : State, s.Inv → step s = .next t → t.Inv

/-- O44 (R11). Nothing halts the block: from a state that meets the invariant every step answers a next state. -/
def Obligations.NothingHalts : Prop := ∀ s : State, s.Inv → ∃ t, step s = .next t

/-- O45 (R201). An error changes nothing but the result registers, RES and RES2 to 0, and the recording of SPSC_VIOLATION. Of a
FEED this says the refused one; a FEED that starts or waits has not completed. -/
def Obligations.ErrorsChangeNothing : Prop :=
  ∀ (i : Instr) (s t : State), s.cur < s.ports.length → exec i s = .next t → (t.port s.cur).stat ≠ 0 →
    (∀ x, i = .feed x → s.feeder.busy = false ∧ (s.outEng.ch x).active = true) →
    (t.port s.cur).res = 0 ∧ (t.port s.cur).res2 = 0 ∧ PortsKept s t ∧
    t = { s with ports := t.ports, faults := { s.faults with spscViolation := t.faults.spscViolation } }

/-- O46 (R203). The statuses each command can end with, OK apart. Of a FEED this says the start step that does not start or
wait. -/
def Obligations.StatusPerCommand : Prop :=
  ∀ (i : Instr) (s t : State), s.cur < s.ports.length → exec i s = .next t →
    (∀ x, i = .feed x → s.feeder.busy = false ∧ (s.outEng.ch x).active = true) →
    (t.port s.cur).stat = 0 ∨
    (match i with
     | .rbStore _ => (t.port s.cur).stat = 4
     | .dmaInit _ | .dmaStart _ => (t.port s.cur).stat = 2
     | .dmaArm _ _ _ => (t.port s.cur).stat = 2 ∨ (t.port s.cur).stat = 3 ∨ (t.port s.cur).stat = 4
     | .bufWrite _ _ _ | .bufRead _ _ _ => (t.port s.cur).stat = 3 ∨ (t.port s.cur).stat = 4
     | .feed _ => (t.port s.cur).stat = 3
     | _ => False)

/-- O47 (R33). The write cursor is moved only by RB_ADVANCE_WRITE, the read cursor only by RB_READ_ONE and by FEED's element
steps. -/
def Obligations.CursorsHaveOneMover : Prop :=
  ∀ s t : State,
    (∀ i, exec i s = .next t → (∀ n, i ≠ .rbAdvanceWrite n) → t.wr = s.wr) ∧
    (∀ i, exec i s = .next t → i ≠ .rbReadOne → t.rd = s.rd) ∧
    (performMove .feeder s = .next t → t.wr = s.wr) ∧
    (∀ e, performMove (.transfer e) s = .next t → t.wr = s.wr ∧ t.rd = s.rd)

/-- O48 (R37). INIT and RUN, once set, stay set through every step: no step stops an engine. -/
def Obligations.EnginesNeverStop : Prop :=
  ∀ (s t : State) (e : Eng), step s = .next t →
    ((s.eng e).inited = true → (t.eng e).inited = true) ∧ ((s.eng e).run = true → (t.eng e).run = true)

/-- O49 (R46). A fault once recorded is never removed, not by any step. -/
def Obligations.FaultsNeverRemoved : Prop :=
  ∀ s t : State, step s = .next t →
    (s.faults.missedRearm = true → t.faults.missedRearm = true) ∧
    (s.faults.spscViolation = true → t.faults.spscViolation = true)

/-- O50 (R45). The serial output only grows, by at most one frame a step, and only by a step of engine OUT. -/
def Obligations.SerialOutAppendOnly : Prop :=
  ∀ s t : State, step s = .next t →
    t.serialOut = s.serialOut ∨ (s.nextMove = .transfer .out ∧ ∃ f, t.serialOut = s.serialOut ++ [f])

/-- O51 (R35, R207). STARVED and OVERRUN are cleared only by BLK_CLEAR; `pend` is cleared only by DMA_ACK, or by a DMA_INIT of an
engine that does not run; `ie` is cleared by no command. -/
def Obligations.FlagsClearedByTheirCommand : Prop :=
  ∀ (i : Instr) (s t : State), exec i s = .next t →
    ((∀ m, i ≠ .blkClear m) → (s.starved = true → t.starved = true) ∧ (s.overrun = true → t.overrun = true)) ∧
    ∀ (e : Eng) (x : Chan),
      (i ≠ .dmaAck e x → (i ≠ .dmaInit e ∨ (s.eng e).run = true) →
        ((s.eng e).ch x).pend = true → ((t.eng e).ch x).pend = true) ∧
      (((s.eng e).ch x).ie = true → ((t.eng e).ch x).ie = true)

/-- O52 (log entry 6: the model's form of a draw, R9). Where the spec draws a value, the model takes the next free word, of which
nothing is known, and moves its counter on: a read of an empty ring, FEED's read of one, and each word of a transfer of OUT that is
not valid. -/
def Obligations.DrawsTakeFreeWords : Prop :=
  (∀ s : State, s.cur < s.ports.length → s.rd = s.wr → ∃ t, exec .rbReadOne s = .next t ∧
    (t.port s.cur).res = ((Config.freeWord s.fresh).setWidth s.par.wIn : BitVec s.par.wIn).signExtend 32 ∧
    t.fresh = s.fresh + 1) ∧
  (∀ s : State, s.feeder.busy = true → (s.outEng.ch s.feeder.ch).active = false → (s.outEng.buf s.feeder.ch).wf = true →
    s.feeder.i < s.feeder.n → s.rd = s.wr → ∃ t, performMove .feeder s = .next t ∧
      readFrame (t.outEng.buf s.feeder.ch) s.feeder.i = convert s.par (Config.freeWord s.fresh) ∧ t.fresh = s.fresh + 1) ∧
  (∀ (s : State) (x : Chan), s.outEng.run = true → s.outEng.activeCh = some x → (s.outEng.ch x).valid = false →
    ∃ t, performMove (.transfer .out) s = .next t ∧
      t.serialOut = s.serialOut ++ [⟨Config.freeWord s.fresh, Config.freeWord (s.fresh + 1)⟩] ∧ t.fresh = s.fresh + 2)

/-- O53 (R31). A command writes no port's CMD or DATA, and no register of a port other than its own. -/
def Obligations.CommandKeepsOtherPorts : Prop :=
  ∀ (i : Instr) (s t : State) (p : Nat), exec i s = .next t →
    (t.port p).cmd = (s.port p).cmd ∧ (t.port p).data = (s.port p).data ∧ (p ≠ s.cur → t.port p = s.port p)

/-- O54 (R245). Under weak fairness a FEED in progress ends: in every fair run from a state that meets the invariant the feeder
comes to rest. `IsRun` and `WeaklyFair` are the model's form of R245 (log entry 16, DEDUCED). -/
def Obligations.FeedInProgressEnds : Prop :=
  ∀ (moves : Nat → Move) (r : Nat → State), IsRun moves r → WeaklyFair moves r → (r 0).Inv → ∃ k, (r k).feeder.busy = false

/-! ### The host bus (20_memory) -/

/-- O55 (R62, R61). A supported read returns the register the address names, and 0 at CMD and at the reserved offsets; the block is
unchanged. -/
def Obligations.BusReadReturnsRegister : Prop :=
  ∀ (s : State) (p q off : Nat), s.canIssue p = true → q < s.par.nports → off < 0x20 → off % 4 = 0 →
    ∃ t, performMove (.busRead p 4 (portAddress s.par q off)) s = .next t ∧ t = { s with busData := t.busData } ∧
      t.busData =
        (if off = 4 then (s.port q).data else if off = 8 then (s.port q).res else if off = 12 then (s.port q).res2
         else if off = 16 then (s.port q).stat.setWidth 32 else 0)

/-- O56 (R62). A supported write to a context's own port: DATA is kept, CMD is issued as a command, any other offset has no
effect. -/
def Obligations.BusWriteReachesPort : Prop :=
  ∀ (s : State) (p off : Nat) (v : Word), s.canIssue p = true → p < s.par.nports → off < 0x20 → off % 4 = 0 →
    (off = 0 → performMove (.busWrite p 4 (portAddress s.par p off) v) s = performWord v (s.issued p none v)) ∧
    (off = 4 → ∃ t, performMove (.busWrite p 4 (portAddress s.par p off) v) s = .next t ∧
      t = { s with ports := t.ports } ∧ t.port p = { s.port p with data := v } ∧ ∀ k, k ≠ p → t.port k = s.port k) ∧
    (off ≠ 0 → off ≠ 4 → performMove (.busWrite p 4 (portAddress s.par p off) v) s = .next s)

/-- O57 (R62). An access of another width, or at an address that is not a multiple of 4, has no effect and leaves its context
without a step: it can issue nothing more. -/
def Obligations.UnsupportedAccessSticks : Prop :=
  ∀ (s : State) (p width addr : Nat) (v : Word), s.canIssue p = true → width ≠ 4 ∨ addr % 4 ≠ 0 →
    ∃ t, performMove (.busWrite p width addr v) s = .next t ∧ performMove (.busRead p width addr) s = .next t ∧
      t = { s with ports := t.ports } ∧ t.port p = { s.port p with issuer := .stuck } ∧
      (∀ k, k ≠ p → t.port k = s.port k) ∧ t.canIssue p = false

/-- O58 (R64). Byte `k` of a register is its bits [8k+7:8k], and the four bytes in bus order make the register. -/
def Obligations.BytesAreLittleEndian : Prop :=
  ∀ w : Word, wordOfBytes (byteOf w 0) (byteOf w 1) (byteOf w 2) (byteOf w 3) = w ∧
    ∀ k b, k < 4 → b < 8 → (byteOf w k).getLsbD b = w.getLsbD (8 * k + b)

/-- O59 (R80, R177, R179). A context whose FEED is in progress is stalled: its next transaction does nothing until the FEED ends. A
held FEED waits while another is in progress, and once none is it is performed, as a FEED issued then. -/
def Obligations.FeedStallsIssuer : Prop :=
  (∀ (s : State) (data : Option Word) (w : Word), s.feeder.busy = true →
    performMove (.command s.feeder.port data w) s = .next s) ∧
  (∀ (s : State) (p : Nat) (x : Chan), (s.port p).issuer = .holding x → s.feeder.busy = true →
    performMove (.resume p) s = .next s) ∧
  ∀ (s : State) (p : Nat) (x : Chan), p < s.ports.length → (s.port p).issuer = .holding x → s.feeder.busy = false →
    ∃ u, performMove (.resume p) s = exec (.feed x) u ∧ u = { s with cur := p, ports := u.ports } ∧
      u.ports.length = s.ports.length ∧ u.port p = { s.port p with issuer := .ready } ∧ ∀ k, k ≠ p → u.port k = s.port k

/-- O60 (R234, R94). After BOOT_OUT without priming: DMA_STATUS.out is 0x327, channel A is active and valid at position 0, channel
B is armed, and both buffers are zero. `bootOut` and `runIssues`, with no other agent's step between the two
commands, are the model's reading of a host sequence (log entry 17, DEDUCED). -/
def Obligations.BootOutStartsChain : Prop :=
  ∀ (p : Params) (k : Nat), p.legal = true → k < p.nports →
    ∃ t, runIssues k (bootOut false) (State.resetWith p) = .next t ∧ t.outEng.status = 0x327 ∧
      t.outEng.activeCh = some .a ∧ (t.outEng.ch .a).valid = true ∧ (t.outEng.ch .a).pos = 0 ∧
      (t.outEng.ch .b).armed = true ∧ (∀ x i, (t.outEng.buf x).read i = 0) ∧ t.noFault
end

