-- ==== Sys2Proof/Laws/Decode.lean ====
section
/-!
SUPPORT. The laws of the command word: its bits, its fields read back, and the rows of the opcode map, which do not overlap.
-/
namespace Sys2Proof

/-- The bits of a command word, field by field (R81). -/
theorem getLsbD_encodeFields (arg : BitVec 16) (e : Eng) (x : Chan) (op : BitVec 8) (k : Nat) :
    (encodeFields arg e x op).getLsbD k =
      if k < 8 then op.getLsbD k
      else if k < 9 then (chBit x).getLsbD (k - 8)
      else if k < 10 then (engBit e).getLsbD (k - 9)
      else if k < 16 then false
      else arg.getLsbD (k - 16) := by
  unfold encodeFields
  simp only [BitVec.getLsbD_append]
  by_cases h8 : k < 8
  · simp [h8]
  by_cases h9 : k < 9
  · have : k - 8 = 0 := by omega
    simp [h8, h9, this]
  by_cases h10 : k < 10
  · have h1 : ¬ k - 8 < 1 := by omega
    have h2 : k - 8 - 1 = k - 9 := by omega
    have h3 : k - 9 < 1 := by omega
    simp only [h8, h9, h10, h1, h2, h3, if_true, if_false]
  have h1 : ¬ k - 8 < 1 := by omega
  have h2 : k - 8 - 1 = k - 9 := by omega
  have h3 : ¬ k - 9 < 1 := by omega
  have h4 : k - 9 - 1 = k - 10 := by omega
  by_cases h16 : k < 16
  · have h5 : k - 10 < 6 := by omega
    simp [h8, h9, h10, h16, h1, h2, h3, h4, h5]
  · have h5 : ¬ k - 10 < 6 := by omega
    have h6 : k - 10 - 6 = k - 16 := by omega
    simp only [h8, h9, h10, h16, h1, h2, h3, h4, h5, h6, if_false]

/-- R81's two spellings of the command word agree. -/
theorem commandWord_eq (arg : BitVec 16) (e : Eng) (x : Chan) (op : BitVec 8) :
    Machine.commandWord arg e x op = encodeFields arg e x op := by
  refine BitVec.eq_of_getLsbD_eq fun k hk => ?_
  rw [getLsbD_encodeFields]
  simp only [Machine.commandWord, BitVec.getLsbD_or, BitVec.getLsbD_shiftLeft, BitVec.getLsbD_setWidth]
  interval_cases k <;> simp

@[simp] theorem opField_encodeFields (arg : BitVec 16) (e : Eng) (x : Chan) (op : BitVec 8) :
    opField (encodeFields arg e x op) = op := by
  ext k hk
  simp [opField, ← BitVec.getLsbD_eq_getElem, getLsbD_encodeFields, hk]

@[simp] theorem argField_encodeFields (arg : BitVec 16) (e : Eng) (x : Chan) (op : BitVec 8) :
    argField (encodeFields arg e x op) = arg := by
  ext k hk
  have h : ∀ n, n ≤ 16 → ¬ 16 + k < n := by omega
  simp [argField, ← BitVec.getLsbD_eq_getElem, getLsbD_encodeFields, hk, h]

@[simp] theorem chField_encodeFields (arg : BitVec 16) (e : Eng) (x : Chan) (op : BitVec 8) :
    chField (encodeFields arg e x op) = x := by
  have h := getLsbD_encodeFields arg e x op 8
  cases x <;> simp only [chField, h] <;> rfl

@[simp] theorem engField_encodeFields (arg : BitVec 16) (e : Eng) (x : Chan) (op : BitVec 8) :
    engField (encodeFields arg e x op) = e := by
  have h := getLsbD_encodeFields arg e x op 9
  cases e <;> simp only [engField, h] <;> rfl

/-- A row covers a word exactly when every bit the row fixes has the row's value. -/
theorem Row.covers_iff (r : Row) (w : Word) :
    r.covers w = true ↔ ∀ k, k < 32 → (w.getLsbD k && r.mask.getLsbD k) = r.pat.getLsbD k := by
  constructor
  · intro h k _
    have h' : w &&& r.mask = r.pat := by simpa [Row.covers] using h
    rw [← h', BitVec.getLsbD_and]
  · intro h
    have : w &&& r.mask = r.pat := by
      ext k hk
      simpa [BitVec.getLsbD_eq_getElem, hk] using h k hk
    simpa [Row.covers] using this

/-- Two rows that differ on a bit both fix. -/
def Row.disjoint (r q : Row) : Prop := (r.pat ^^^ q.pat) &&& (r.mask &&& q.mask) ≠ 0#32

/-- No two rows of the opcode map overlap (R86). -/
theorem opcodeTable_disjoint : opcodeTable.Pairwise fun r q => (r.pat ^^^ q.pat) &&& (r.mask &&& q.mask) ≠ 0#32 := by
  decide

/-- Two rows that differ on a bit both fix do not cover one word. -/
theorem Row.not_both_cover {r q : Row} (h : r.disjoint q) {w : Word} (hr : r.covers w = true) (hq : q.covers w = true) :
    False := by
  refine h ?_
  have hr' : w &&& r.mask = r.pat := by simpa [Row.covers] using hr
  have hq' : w &&& q.mask = q.pat := by simpa [Row.covers] using hq
  rw [← hr', ← hq']
  ext k hk
  rw [BitVec.getElem_and, BitVec.getElem_and, BitVec.getElem_xor, BitVec.getElem_and, BitVec.getElem_and,
    BitVec.getElem_zero]
  cases w[k] <;> cases r.mask[k] <;> cases q.mask[k] <;> decide

/-- A search through disjoint rows finds the row that covers the word. -/
theorem Row.find_covers {l : List Row} (hl : l.Pairwise Row.disjoint) {r : Row} (hr : r ∈ l) {w : Word}
    (h : r.covers w = true) : l.find? (fun q => q.covers w) = some r := by
  induction l with
  | nil => simp at hr
  | cons c l ih =>
    obtain ⟨hc, hl⟩ := List.pairwise_cons.mp hl
    rcases List.mem_cons.mp hr with rfl | hr
    · exact List.find?_cons_of_pos h
    · rw [List.find?_cons_of_neg, ih hl hr]
      exact fun hcw => Row.not_both_cover (hc r hr) hcw h

end Sys2Proof
end

