-- ==== Sys2Proof/Laws/State.lean ====
section
/-!
SUPPORT. One lemma per field per update of the state, so that no proof unfolds a record update.
-/
namespace Sys2Proof.Machine

open Sys2Proof

@[simp] theorem State.setPort_par (s : State) (p : Nat) (q : Port) : (s.setPort p q).par = s.par := rfl
@[simp] theorem State.setPort_ports (s : State) (p : Nat) (q : Port) : (s.setPort p q).ports = s.ports.set p q := rfl
@[simp] theorem State.setPort_ring (s : State) (p : Nat) (q : Port) : (s.setPort p q).ring = s.ring := rfl
@[simp] theorem State.setPort_wr (s : State) (p : Nat) (q : Port) : (s.setPort p q).wr = s.wr := rfl
@[simp] theorem State.setPort_rd (s : State) (p : Nat) (q : Port) : (s.setPort p q).rd = s.rd := rfl
@[simp] theorem State.setPort_starved (s : State) (p : Nat) (q : Port) : (s.setPort p q).starved = s.starved := rfl
@[simp] theorem State.setPort_overrun (s : State) (p : Nat) (q : Port) : (s.setPort p q).overrun = s.overrun := rfl
@[simp] theorem State.setPort_outEng (s : State) (p : Nat) (q : Port) : (s.setPort p q).outEng = s.outEng := rfl
@[simp] theorem State.setPort_capEng (s : State) (p : Nat) (q : Port) : (s.setPort p q).capEng = s.capEng := rfl
@[simp] theorem State.setPort_feeder (s : State) (p : Nat) (q : Port) : (s.setPort p q).feeder = s.feeder := rfl
@[simp] theorem State.setPort_serialOut (s : State) (p : Nat) (q : Port) : (s.setPort p q).serialOut = s.serialOut := rfl
@[simp] theorem State.setPort_faults (s : State) (p : Nat) (q : Port) : (s.setPort p q).faults = s.faults := rfl
@[simp] theorem State.setPort_cur (s : State) (p : Nat) (q : Port) : (s.setPort p q).cur = s.cur := rfl
@[simp] theorem State.setPort_sampler (s : State) (p : Nat) (q : Port) : (s.setPort p q).sampler = s.sampler := rfl
@[simp] theorem State.setPort_agenda (s : State) (p : Nat) (q : Port) : (s.setPort p q).agenda = s.agenda := rfl
@[simp] theorem State.setPort_busData (s : State) (p : Nat) (q : Port) : (s.setPort p q).busData = s.busData := rfl
@[simp] theorem State.setPort_fresh (s : State) (p : Nat) (q : Port) : (s.setPort p q).fresh = s.fresh := rfl

@[simp] theorem State.completeOn_par (s : State) (p : Nat) (c : BitVec 8) (r r2 : Word) : (s.completeOn p c r r2).par = s.par := rfl
@[simp] theorem State.completeOn_ports (s : State) (p : Nat) (c : BitVec 8) (r r2 : Word) : (s.completeOn p c r r2).ports = s.ports.set p { s.port p with res := r, res2 := r2, stat := c } := rfl
@[simp] theorem State.completeOn_ring (s : State) (p : Nat) (c : BitVec 8) (r r2 : Word) : (s.completeOn p c r r2).ring = s.ring := rfl
@[simp] theorem State.completeOn_wr (s : State) (p : Nat) (c : BitVec 8) (r r2 : Word) : (s.completeOn p c r r2).wr = s.wr := rfl
@[simp] theorem State.completeOn_rd (s : State) (p : Nat) (c : BitVec 8) (r r2 : Word) : (s.completeOn p c r r2).rd = s.rd := rfl
@[simp] theorem State.completeOn_starved (s : State) (p : Nat) (c : BitVec 8) (r r2 : Word) : (s.completeOn p c r r2).starved = s.starved := rfl
@[simp] theorem State.completeOn_overrun (s : State) (p : Nat) (c : BitVec 8) (r r2 : Word) : (s.completeOn p c r r2).overrun = s.overrun := rfl
@[simp] theorem State.completeOn_outEng (s : State) (p : Nat) (c : BitVec 8) (r r2 : Word) : (s.completeOn p c r r2).outEng = s.outEng := rfl
@[simp] theorem State.completeOn_capEng (s : State) (p : Nat) (c : BitVec 8) (r r2 : Word) : (s.completeOn p c r r2).capEng = s.capEng := rfl
@[simp] theorem State.completeOn_feeder (s : State) (p : Nat) (c : BitVec 8) (r r2 : Word) : (s.completeOn p c r r2).feeder = s.feeder := rfl
@[simp] theorem State.completeOn_serialOut (s : State) (p : Nat) (c : BitVec 8) (r r2 : Word) : (s.completeOn p c r r2).serialOut = s.serialOut := rfl
@[simp] theorem State.completeOn_faults (s : State) (p : Nat) (c : BitVec 8) (r r2 : Word) : (s.completeOn p c r r2).faults = s.faults := rfl
@[simp] theorem State.completeOn_cur (s : State) (p : Nat) (c : BitVec 8) (r r2 : Word) : (s.completeOn p c r r2).cur = s.cur := rfl
@[simp] theorem State.completeOn_sampler (s : State) (p : Nat) (c : BitVec 8) (r r2 : Word) : (s.completeOn p c r r2).sampler = s.sampler := rfl
@[simp] theorem State.completeOn_agenda (s : State) (p : Nat) (c : BitVec 8) (r r2 : Word) : (s.completeOn p c r r2).agenda = s.agenda := rfl
@[simp] theorem State.completeOn_busData (s : State) (p : Nat) (c : BitVec 8) (r r2 : Word) : (s.completeOn p c r r2).busData = s.busData := rfl
@[simp] theorem State.completeOn_fresh (s : State) (p : Nat) (c : BitVec 8) (r r2 : Word) : (s.completeOn p c r r2).fresh = s.fresh := rfl

@[simp] theorem State.drawn_par (s : State) : (s.drawn).par = s.par := rfl
@[simp] theorem State.drawn_ports (s : State) : (s.drawn).ports = s.ports := rfl
@[simp] theorem State.drawn_ring (s : State) : (s.drawn).ring = s.ring := rfl
@[simp] theorem State.drawn_wr (s : State) : (s.drawn).wr = s.wr := rfl
@[simp] theorem State.drawn_rd (s : State) : (s.drawn).rd = s.rd := rfl
@[simp] theorem State.drawn_starved (s : State) : (s.drawn).starved = s.starved := rfl
@[simp] theorem State.drawn_overrun (s : State) : (s.drawn).overrun = s.overrun := rfl
@[simp] theorem State.drawn_outEng (s : State) : (s.drawn).outEng = s.outEng := rfl
@[simp] theorem State.drawn_capEng (s : State) : (s.drawn).capEng = s.capEng := rfl
@[simp] theorem State.drawn_feeder (s : State) : (s.drawn).feeder = s.feeder := rfl
@[simp] theorem State.drawn_serialOut (s : State) : (s.drawn).serialOut = s.serialOut := rfl
@[simp] theorem State.drawn_faults (s : State) : (s.drawn).faults = s.faults := rfl
@[simp] theorem State.drawn_cur (s : State) : (s.drawn).cur = s.cur := rfl
@[simp] theorem State.drawn_sampler (s : State) : (s.drawn).sampler = s.sampler := rfl
@[simp] theorem State.drawn_agenda (s : State) : (s.drawn).agenda = s.agenda := rfl
@[simp] theorem State.drawn_busData (s : State) : (s.drawn).busData = s.busData := rfl
@[simp] theorem State.drawn_fresh (s : State) : (s.drawn).fresh = s.fresh + 1 := rfl

@[simp] theorem State.noteSpsc_par (s : State) (b : Bool) : (s.noteSpsc b).par = s.par := rfl
@[simp] theorem State.noteSpsc_ports (s : State) (b : Bool) : (s.noteSpsc b).ports = s.ports := rfl
@[simp] theorem State.noteSpsc_ring (s : State) (b : Bool) : (s.noteSpsc b).ring = s.ring := rfl
@[simp] theorem State.noteSpsc_wr (s : State) (b : Bool) : (s.noteSpsc b).wr = s.wr := rfl
@[simp] theorem State.noteSpsc_rd (s : State) (b : Bool) : (s.noteSpsc b).rd = s.rd := rfl
@[simp] theorem State.noteSpsc_starved (s : State) (b : Bool) : (s.noteSpsc b).starved = s.starved := rfl
@[simp] theorem State.noteSpsc_overrun (s : State) (b : Bool) : (s.noteSpsc b).overrun = s.overrun := rfl
@[simp] theorem State.noteSpsc_outEng (s : State) (b : Bool) : (s.noteSpsc b).outEng = s.outEng := rfl
@[simp] theorem State.noteSpsc_capEng (s : State) (b : Bool) : (s.noteSpsc b).capEng = s.capEng := rfl
@[simp] theorem State.noteSpsc_feeder (s : State) (b : Bool) : (s.noteSpsc b).feeder = s.feeder := rfl
@[simp] theorem State.noteSpsc_serialOut (s : State) (b : Bool) : (s.noteSpsc b).serialOut = s.serialOut := rfl
@[simp] theorem State.noteSpsc_faults (s : State) (b : Bool) : (s.noteSpsc b).faults = { s.faults with spscViolation := s.faults.spscViolation || b } := rfl
@[simp] theorem State.noteSpsc_cur (s : State) (b : Bool) : (s.noteSpsc b).cur = s.cur := rfl
@[simp] theorem State.noteSpsc_sampler (s : State) (b : Bool) : (s.noteSpsc b).sampler = s.sampler := rfl
@[simp] theorem State.noteSpsc_agenda (s : State) (b : Bool) : (s.noteSpsc b).agenda = s.agenda := rfl
@[simp] theorem State.noteSpsc_busData (s : State) (b : Bool) : (s.noteSpsc b).busData = s.busData := rfl
@[simp] theorem State.noteSpsc_fresh (s : State) (b : Bool) : (s.noteSpsc b).fresh = s.fresh := rfl

@[simp] theorem State.noteMissed_par (s : State) (b : Bool) : (s.noteMissed b).par = s.par := rfl
@[simp] theorem State.noteMissed_ports (s : State) (b : Bool) : (s.noteMissed b).ports = s.ports := rfl
@[simp] theorem State.noteMissed_ring (s : State) (b : Bool) : (s.noteMissed b).ring = s.ring := rfl
@[simp] theorem State.noteMissed_wr (s : State) (b : Bool) : (s.noteMissed b).wr = s.wr := rfl
@[simp] theorem State.noteMissed_rd (s : State) (b : Bool) : (s.noteMissed b).rd = s.rd := rfl
@[simp] theorem State.noteMissed_starved (s : State) (b : Bool) : (s.noteMissed b).starved = s.starved := rfl
@[simp] theorem State.noteMissed_overrun (s : State) (b : Bool) : (s.noteMissed b).overrun = s.overrun := rfl
@[simp] theorem State.noteMissed_outEng (s : State) (b : Bool) : (s.noteMissed b).outEng = s.outEng := rfl
@[simp] theorem State.noteMissed_capEng (s : State) (b : Bool) : (s.noteMissed b).capEng = s.capEng := rfl
@[simp] theorem State.noteMissed_feeder (s : State) (b : Bool) : (s.noteMissed b).feeder = s.feeder := rfl
@[simp] theorem State.noteMissed_serialOut (s : State) (b : Bool) : (s.noteMissed b).serialOut = s.serialOut := rfl
@[simp] theorem State.noteMissed_faults (s : State) (b : Bool) : (s.noteMissed b).faults = { s.faults with missedRearm := s.faults.missedRearm || b } := rfl
@[simp] theorem State.noteMissed_cur (s : State) (b : Bool) : (s.noteMissed b).cur = s.cur := rfl
@[simp] theorem State.noteMissed_sampler (s : State) (b : Bool) : (s.noteMissed b).sampler = s.sampler := rfl
@[simp] theorem State.noteMissed_agenda (s : State) (b : Bool) : (s.noteMissed b).agenda = s.agenda := rfl
@[simp] theorem State.noteMissed_busData (s : State) (b : Bool) : (s.noteMissed b).busData = s.busData := rfl
@[simp] theorem State.noteMissed_fresh (s : State) (b : Bool) : (s.noteMissed b).fresh = s.fresh := rfl

@[simp] theorem State.writeSide_par (s : State) : (s.writeSide).par = s.par := rfl
@[simp] theorem State.writeSide_ports (s : State) : (s.writeSide).ports = s.ports := rfl
@[simp] theorem State.writeSide_ring (s : State) : (s.writeSide).ring = s.ring := rfl
@[simp] theorem State.writeSide_wr (s : State) : (s.writeSide).wr = s.wr := rfl
@[simp] theorem State.writeSide_rd (s : State) : (s.writeSide).rd = s.rd := rfl
@[simp] theorem State.writeSide_starved (s : State) : (s.writeSide).starved = s.starved := rfl
@[simp] theorem State.writeSide_overrun (s : State) : (s.writeSide).overrun = s.overrun := rfl
@[simp] theorem State.writeSide_outEng (s : State) : (s.writeSide).outEng = s.outEng := rfl
@[simp] theorem State.writeSide_capEng (s : State) : (s.writeSide).capEng = s.capEng := rfl
@[simp] theorem State.writeSide_feeder (s : State) : (s.writeSide).feeder = s.feeder := rfl
@[simp] theorem State.writeSide_serialOut (s : State) : (s.writeSide).serialOut = s.serialOut := rfl
@[simp] theorem State.writeSide_faults (s : State) : (s.writeSide).faults = { s.faults with spscViolation := s.faults.spscViolation || decide (s.cur ≠ s.par.producer) } := rfl
@[simp] theorem State.writeSide_cur (s : State) : (s.writeSide).cur = s.cur := rfl
@[simp] theorem State.writeSide_sampler (s : State) : (s.writeSide).sampler = s.sampler := rfl
@[simp] theorem State.writeSide_agenda (s : State) : (s.writeSide).agenda = s.agenda := rfl
@[simp] theorem State.writeSide_busData (s : State) : (s.writeSide).busData = s.busData := rfl
@[simp] theorem State.writeSide_fresh (s : State) : (s.writeSide).fresh = s.fresh := rfl

@[simp] theorem State.readSide_par (s : State) : (s.readSide).par = s.par := rfl
@[simp] theorem State.readSide_ports (s : State) : (s.readSide).ports = s.ports := rfl
@[simp] theorem State.readSide_ring (s : State) : (s.readSide).ring = s.ring := rfl
@[simp] theorem State.readSide_wr (s : State) : (s.readSide).wr = s.wr := rfl
@[simp] theorem State.readSide_rd (s : State) : (s.readSide).rd = s.rd := rfl
@[simp] theorem State.readSide_starved (s : State) : (s.readSide).starved = s.starved := rfl
@[simp] theorem State.readSide_overrun (s : State) : (s.readSide).overrun = s.overrun := rfl
@[simp] theorem State.readSide_outEng (s : State) : (s.readSide).outEng = s.outEng := rfl
@[simp] theorem State.readSide_capEng (s : State) : (s.readSide).capEng = s.capEng := rfl
@[simp] theorem State.readSide_feeder (s : State) : (s.readSide).feeder = s.feeder := rfl
@[simp] theorem State.readSide_serialOut (s : State) : (s.readSide).serialOut = s.serialOut := rfl
@[simp] theorem State.readSide_faults (s : State) : (s.readSide).faults = { s.faults with spscViolation := s.faults.spscViolation || decide (s.cur ≠ s.par.consumer) } := rfl
@[simp] theorem State.readSide_cur (s : State) : (s.readSide).cur = s.cur := rfl
@[simp] theorem State.readSide_sampler (s : State) : (s.readSide).sampler = s.sampler := rfl
@[simp] theorem State.readSide_agenda (s : State) : (s.readSide).agenda = s.agenda := rfl
@[simp] theorem State.readSide_busData (s : State) : (s.readSide).busData = s.busData := rfl
@[simp] theorem State.readSide_fresh (s : State) : (s.readSide).fresh = s.fresh := rfl

@[simp] theorem State.advanceWr_par (s : State) (n : Nat) : (s.advanceWr n).par = s.par := rfl
@[simp] theorem State.advanceWr_ports (s : State) (n : Nat) : (s.advanceWr n).ports = s.ports := rfl
@[simp] theorem State.advanceWr_ring (s : State) (n : Nat) : (s.advanceWr n).ring = s.ring := rfl
@[simp] theorem State.advanceWr_wr (s : State) (n : Nat) : (s.advanceWr n).wr = (s.wr + n) % s.par.capacity := rfl
@[simp] theorem State.advanceWr_rd (s : State) (n : Nat) : (s.advanceWr n).rd = s.rd := rfl
@[simp] theorem State.advanceWr_starved (s : State) (n : Nat) : (s.advanceWr n).starved = s.starved := rfl
@[simp] theorem State.advanceWr_overrun (s : State) (n : Nat) : (s.advanceWr n).overrun = s.overrun := rfl
@[simp] theorem State.advanceWr_outEng (s : State) (n : Nat) : (s.advanceWr n).outEng = s.outEng := rfl
@[simp] theorem State.advanceWr_capEng (s : State) (n : Nat) : (s.advanceWr n).capEng = s.capEng := rfl
@[simp] theorem State.advanceWr_feeder (s : State) (n : Nat) : (s.advanceWr n).feeder = s.feeder := rfl
@[simp] theorem State.advanceWr_serialOut (s : State) (n : Nat) : (s.advanceWr n).serialOut = s.serialOut := rfl
@[simp] theorem State.advanceWr_faults (s : State) (n : Nat) : (s.advanceWr n).faults = s.faults := rfl
@[simp] theorem State.advanceWr_cur (s : State) (n : Nat) : (s.advanceWr n).cur = s.cur := rfl
@[simp] theorem State.advanceWr_sampler (s : State) (n : Nat) : (s.advanceWr n).sampler = s.sampler := rfl
@[simp] theorem State.advanceWr_agenda (s : State) (n : Nat) : (s.advanceWr n).agenda = s.agenda := rfl
@[simp] theorem State.advanceWr_busData (s : State) (n : Nat) : (s.advanceWr n).busData = s.busData := rfl
@[simp] theorem State.advanceWr_fresh (s : State) (n : Nat) : (s.advanceWr n).fresh = s.fresh := rfl

@[simp] theorem State.afterRingRead_par (s : State) : (s.afterRingRead).par = s.par := by
  unfold State.afterRingRead; split <;> rfl
@[simp] theorem State.afterRingRead_ports (s : State) : (s.afterRingRead).ports = s.ports := by
  unfold State.afterRingRead; split <;> rfl
@[simp] theorem State.afterRingRead_ring (s : State) : (s.afterRingRead).ring = s.ring := by
  unfold State.afterRingRead; split <;> rfl
@[simp] theorem State.afterRingRead_wr (s : State) : (s.afterRingRead).wr = s.wr := by
  unfold State.afterRingRead; split <;> rfl
@[simp] theorem State.afterRingRead_rd (s : State) : (s.afterRingRead).rd = (s.rd + 1) % s.par.capacity := by
  unfold State.afterRingRead; split <;> rfl
@[simp] theorem State.afterRingRead_starved (s : State) : (s.afterRingRead).starved = s.starved := by
  unfold State.afterRingRead; split <;> rfl
@[simp] theorem State.afterRingRead_overrun (s : State) : (s.afterRingRead).overrun = s.overrun := by
  unfold State.afterRingRead; split <;> rfl
@[simp] theorem State.afterRingRead_outEng (s : State) : (s.afterRingRead).outEng = s.outEng := by
  unfold State.afterRingRead; split <;> rfl
@[simp] theorem State.afterRingRead_capEng (s : State) : (s.afterRingRead).capEng = s.capEng := by
  unfold State.afterRingRead; split <;> rfl
@[simp] theorem State.afterRingRead_feeder (s : State) : (s.afterRingRead).feeder = s.feeder := by
  unfold State.afterRingRead; split <;> rfl
@[simp] theorem State.afterRingRead_serialOut (s : State) : (s.afterRingRead).serialOut = s.serialOut := by
  unfold State.afterRingRead; split <;> rfl
@[simp] theorem State.afterRingRead_faults (s : State) : (s.afterRingRead).faults = s.faults := by
  unfold State.afterRingRead; split <;> rfl
@[simp] theorem State.afterRingRead_cur (s : State) : (s.afterRingRead).cur = s.cur := by
  unfold State.afterRingRead; split <;> rfl
@[simp] theorem State.afterRingRead_sampler (s : State) : (s.afterRingRead).sampler = s.sampler := by
  unfold State.afterRingRead; split <;> rfl
@[simp] theorem State.afterRingRead_agenda (s : State) : (s.afterRingRead).agenda = s.agenda := by
  unfold State.afterRingRead; split <;> rfl
@[simp] theorem State.afterRingRead_busData (s : State) : (s.afterRingRead).busData = s.busData := by
  unfold State.afterRingRead; split <;> rfl
@[simp] theorem State.afterRingRead_fresh (s : State) : (s.afterRingRead).fresh = if s.ringEmpty then s.fresh + 1 else s.fresh := by
  unfold State.afterRingRead; split <;> rfl

@[simp] theorem State.setEng_par (s : State) (e : Eng) (g : Engine) : (s.setEng e g).par = s.par := by cases e <;> rfl
@[simp] theorem State.setEng_ports (s : State) (e : Eng) (g : Engine) : (s.setEng e g).ports = s.ports := by cases e <;> rfl
@[simp] theorem State.setEng_ring (s : State) (e : Eng) (g : Engine) : (s.setEng e g).ring = s.ring := by cases e <;> rfl
@[simp] theorem State.setEng_wr (s : State) (e : Eng) (g : Engine) : (s.setEng e g).wr = s.wr := by cases e <;> rfl
@[simp] theorem State.setEng_rd (s : State) (e : Eng) (g : Engine) : (s.setEng e g).rd = s.rd := by cases e <;> rfl
@[simp] theorem State.setEng_starved (s : State) (e : Eng) (g : Engine) : (s.setEng e g).starved = s.starved := by cases e <;> rfl
@[simp] theorem State.setEng_overrun (s : State) (e : Eng) (g : Engine) : (s.setEng e g).overrun = s.overrun := by cases e <;> rfl
@[simp] theorem State.setEng_outEng (s : State) (e : Eng) (g : Engine) : (s.setEng e g).outEng = if e = .out then g else s.outEng := by cases e <;> rfl
@[simp] theorem State.setEng_capEng (s : State) (e : Eng) (g : Engine) : (s.setEng e g).capEng = if e = .cap then g else s.capEng := by cases e <;> rfl
@[simp] theorem State.setEng_feeder (s : State) (e : Eng) (g : Engine) : (s.setEng e g).feeder = s.feeder := by cases e <;> rfl
@[simp] theorem State.setEng_serialOut (s : State) (e : Eng) (g : Engine) : (s.setEng e g).serialOut = s.serialOut := by cases e <;> rfl
@[simp] theorem State.setEng_faults (s : State) (e : Eng) (g : Engine) : (s.setEng e g).faults = s.faults := by cases e <;> rfl
@[simp] theorem State.setEng_cur (s : State) (e : Eng) (g : Engine) : (s.setEng e g).cur = s.cur := by cases e <;> rfl
@[simp] theorem State.setEng_sampler (s : State) (e : Eng) (g : Engine) : (s.setEng e g).sampler = s.sampler := by cases e <;> rfl
@[simp] theorem State.setEng_agenda (s : State) (e : Eng) (g : Engine) : (s.setEng e g).agenda = s.agenda := by cases e <;> rfl
@[simp] theorem State.setEng_busData (s : State) (e : Eng) (g : Engine) : (s.setEng e g).busData = s.busData := by cases e <;> rfl
@[simp] theorem State.setEng_fresh (s : State) (e : Eng) (g : Engine) : (s.setEng e g).fresh = s.fresh := by cases e <;> rfl

@[simp] theorem State.noteOverrun_par (s : State) (n : Nat) : (s.noteOverrun n).par = s.par := rfl
@[simp] theorem State.noteOverrun_ports (s : State) (n : Nat) : (s.noteOverrun n).ports = s.ports := rfl
@[simp] theorem State.noteOverrun_ring (s : State) (n : Nat) : (s.noteOverrun n).ring = s.ring := rfl
@[simp] theorem State.noteOverrun_wr (s : State) (n : Nat) : (s.noteOverrun n).wr = s.wr := rfl
@[simp] theorem State.noteOverrun_rd (s : State) (n : Nat) : (s.noteOverrun n).rd = s.rd := rfl
@[simp] theorem State.noteOverrun_starved (s : State) (n : Nat) : (s.noteOverrun n).starved = s.starved := rfl
@[simp] theorem State.noteOverrun_overrun (s : State) (n : Nat) : (s.noteOverrun n).overrun = (s.overrun || (s.par.overrunDetect && s.overruns n)) := rfl
@[simp] theorem State.noteOverrun_outEng (s : State) (n : Nat) : (s.noteOverrun n).outEng = s.outEng := rfl
@[simp] theorem State.noteOverrun_capEng (s : State) (n : Nat) : (s.noteOverrun n).capEng = s.capEng := rfl
@[simp] theorem State.noteOverrun_feeder (s : State) (n : Nat) : (s.noteOverrun n).feeder = s.feeder := rfl
@[simp] theorem State.noteOverrun_serialOut (s : State) (n : Nat) : (s.noteOverrun n).serialOut = s.serialOut := rfl
@[simp] theorem State.noteOverrun_faults (s : State) (n : Nat) : (s.noteOverrun n).faults = s.faults := rfl
@[simp] theorem State.noteOverrun_cur (s : State) (n : Nat) : (s.noteOverrun n).cur = s.cur := rfl
@[simp] theorem State.noteOverrun_sampler (s : State) (n : Nat) : (s.noteOverrun n).sampler = s.sampler := rfl
@[simp] theorem State.noteOverrun_agenda (s : State) (n : Nat) : (s.noteOverrun n).agenda = s.agenda := rfl
@[simp] theorem State.noteOverrun_busData (s : State) (n : Nat) : (s.noteOverrun n).busData = s.busData := rfl
@[simp] theorem State.noteOverrun_fresh (s : State) (n : Nat) : (s.noteOverrun n).fresh = s.fresh := rfl

@[simp] theorem State.noteStarved_par (s : State) (b : Bool) : (s.noteStarved b).par = s.par := rfl
@[simp] theorem State.noteStarved_ports (s : State) (b : Bool) : (s.noteStarved b).ports = s.ports := rfl
@[simp] theorem State.noteStarved_ring (s : State) (b : Bool) : (s.noteStarved b).ring = s.ring := rfl
@[simp] theorem State.noteStarved_wr (s : State) (b : Bool) : (s.noteStarved b).wr = s.wr := rfl
@[simp] theorem State.noteStarved_rd (s : State) (b : Bool) : (s.noteStarved b).rd = s.rd := rfl
@[simp] theorem State.noteStarved_starved (s : State) (b : Bool) : (s.noteStarved b).starved = (s.starved || b) := rfl
@[simp] theorem State.noteStarved_overrun (s : State) (b : Bool) : (s.noteStarved b).overrun = s.overrun := rfl
@[simp] theorem State.noteStarved_outEng (s : State) (b : Bool) : (s.noteStarved b).outEng = s.outEng := rfl
@[simp] theorem State.noteStarved_capEng (s : State) (b : Bool) : (s.noteStarved b).capEng = s.capEng := rfl
@[simp] theorem State.noteStarved_feeder (s : State) (b : Bool) : (s.noteStarved b).feeder = s.feeder := rfl
@[simp] theorem State.noteStarved_serialOut (s : State) (b : Bool) : (s.noteStarved b).serialOut = s.serialOut := rfl
@[simp] theorem State.noteStarved_faults (s : State) (b : Bool) : (s.noteStarved b).faults = s.faults := rfl
@[simp] theorem State.noteStarved_cur (s : State) (b : Bool) : (s.noteStarved b).cur = s.cur := rfl
@[simp] theorem State.noteStarved_sampler (s : State) (b : Bool) : (s.noteStarved b).sampler = s.sampler := rfl
@[simp] theorem State.noteStarved_agenda (s : State) (b : Bool) : (s.noteStarved b).agenda = s.agenda := rfl
@[simp] theorem State.noteStarved_busData (s : State) (b : Bool) : (s.noteStarved b).busData = s.busData := rfl
@[simp] theorem State.noteStarved_fresh (s : State) (b : Bool) : (s.noteStarved b).fresh = s.fresh := rfl

@[simp] theorem State.clearSticky_par (s : State) (m : BitVec 16) : (s.clearSticky m).par = s.par := rfl
@[simp] theorem State.clearSticky_ports (s : State) (m : BitVec 16) : (s.clearSticky m).ports = s.ports := rfl
@[simp] theorem State.clearSticky_ring (s : State) (m : BitVec 16) : (s.clearSticky m).ring = s.ring := rfl
@[simp] theorem State.clearSticky_wr (s : State) (m : BitVec 16) : (s.clearSticky m).wr = s.wr := rfl
@[simp] theorem State.clearSticky_rd (s : State) (m : BitVec 16) : (s.clearSticky m).rd = s.rd := rfl
@[simp] theorem State.clearSticky_starved (s : State) (m : BitVec 16) : (s.clearSticky m).starved = (s.starved && !m.getLsbD 0) := rfl
@[simp] theorem State.clearSticky_overrun (s : State) (m : BitVec 16) : (s.clearSticky m).overrun = (s.overrun && !m.getLsbD 1) := rfl
@[simp] theorem State.clearSticky_outEng (s : State) (m : BitVec 16) : (s.clearSticky m).outEng = s.outEng := rfl
@[simp] theorem State.clearSticky_capEng (s : State) (m : BitVec 16) : (s.clearSticky m).capEng = s.capEng := rfl
@[simp] theorem State.clearSticky_feeder (s : State) (m : BitVec 16) : (s.clearSticky m).feeder = s.feeder := rfl
@[simp] theorem State.clearSticky_serialOut (s : State) (m : BitVec 16) : (s.clearSticky m).serialOut = s.serialOut := rfl
@[simp] theorem State.clearSticky_faults (s : State) (m : BitVec 16) : (s.clearSticky m).faults = s.faults := rfl
@[simp] theorem State.clearSticky_cur (s : State) (m : BitVec 16) : (s.clearSticky m).cur = s.cur := rfl
@[simp] theorem State.clearSticky_sampler (s : State) (m : BitVec 16) : (s.clearSticky m).sampler = s.sampler := rfl
@[simp] theorem State.clearSticky_agenda (s : State) (m : BitVec 16) : (s.clearSticky m).agenda = s.agenda := rfl
@[simp] theorem State.clearSticky_busData (s : State) (m : BitVec 16) : (s.clearSticky m).busData = s.busData := rfl
@[simp] theorem State.clearSticky_fresh (s : State) (m : BitVec 16) : (s.clearSticky m).fresh = s.fresh := rfl

@[simp] theorem State.trigger_par (s : State) (e : Eng) (y : Chan) : (s.trigger e y).par = s.par := by cases e <;> rfl
@[simp] theorem State.trigger_ports (s : State) (e : Eng) (y : Chan) : (s.trigger e y).ports = s.ports := by cases e <;> rfl
@[simp] theorem State.trigger_ring (s : State) (e : Eng) (y : Chan) : (s.trigger e y).ring = s.ring := by cases e <;> rfl
@[simp] theorem State.trigger_wr (s : State) (e : Eng) (y : Chan) : (s.trigger e y).wr = s.wr := by cases e <;> rfl
@[simp] theorem State.trigger_rd (s : State) (e : Eng) (y : Chan) : (s.trigger e y).rd = s.rd := by cases e <;> rfl
@[simp] theorem State.trigger_starved (s : State) (e : Eng) (y : Chan) : (s.trigger e y).starved = s.starved := by cases e <;> rfl
@[simp] theorem State.trigger_overrun (s : State) (e : Eng) (y : Chan) : (s.trigger e y).overrun = s.overrun := by cases e <;> rfl
@[simp] theorem State.trigger_feeder (s : State) (e : Eng) (y : Chan) : (s.trigger e y).feeder = s.feeder := by cases e <;> rfl
@[simp] theorem State.trigger_serialOut (s : State) (e : Eng) (y : Chan) : (s.trigger e y).serialOut = s.serialOut := by cases e <;> rfl
@[simp] theorem State.trigger_faults (s : State) (e : Eng) (y : Chan) : (s.trigger e y).faults = { s.faults with missedRearm := s.faults.missedRearm || !((s.eng e).ch y).armed } := by cases e <;> rfl
@[simp] theorem State.trigger_cur (s : State) (e : Eng) (y : Chan) : (s.trigger e y).cur = s.cur := by cases e <;> rfl
@[simp] theorem State.trigger_sampler (s : State) (e : Eng) (y : Chan) : (s.trigger e y).sampler = s.sampler := by cases e <;> rfl
@[simp] theorem State.trigger_agenda (s : State) (e : Eng) (y : Chan) : (s.trigger e y).agenda = s.agenda := by cases e <;> rfl
@[simp] theorem State.trigger_busData (s : State) (e : Eng) (y : Chan) : (s.trigger e y).busData = s.busData := by cases e <;> rfl
@[simp] theorem State.trigger_fresh (s : State) (e : Eng) (y : Chan) : (s.trigger e y).fresh = s.fresh := by cases e <;> rfl

@[simp] theorem State.complete_par (s : State) (e : Eng) (x : Chan) : (s.complete e x).par = s.par := by simp [State.complete]
@[simp] theorem State.complete_ports (s : State) (e : Eng) (x : Chan) : (s.complete e x).ports = s.ports := by simp [State.complete]
@[simp] theorem State.complete_ring (s : State) (e : Eng) (x : Chan) : (s.complete e x).ring = s.ring := by simp [State.complete]
@[simp] theorem State.complete_wr (s : State) (e : Eng) (x : Chan) : (s.complete e x).wr = s.wr := by simp [State.complete]
@[simp] theorem State.complete_rd (s : State) (e : Eng) (x : Chan) : (s.complete e x).rd = s.rd := by simp [State.complete]
@[simp] theorem State.complete_starved (s : State) (e : Eng) (x : Chan) : (s.complete e x).starved = s.starved := by simp [State.complete]
@[simp] theorem State.complete_overrun (s : State) (e : Eng) (x : Chan) : (s.complete e x).overrun = s.overrun := by simp [State.complete]
@[simp] theorem State.complete_feeder (s : State) (e : Eng) (x : Chan) : (s.complete e x).feeder = s.feeder := by simp [State.complete]
@[simp] theorem State.complete_serialOut (s : State) (e : Eng) (x : Chan) : (s.complete e x).serialOut = s.serialOut := by simp [State.complete]
@[simp] theorem State.complete_cur (s : State) (e : Eng) (x : Chan) : (s.complete e x).cur = s.cur := by simp [State.complete]
@[simp] theorem State.complete_sampler (s : State) (e : Eng) (x : Chan) : (s.complete e x).sampler = s.sampler := by simp [State.complete]
@[simp] theorem State.complete_agenda (s : State) (e : Eng) (x : Chan) : (s.complete e x).agenda = s.agenda := by simp [State.complete]
@[simp] theorem State.complete_busData (s : State) (e : Eng) (x : Chan) : (s.complete e x).busData = s.busData := by simp [State.complete]
@[simp] theorem State.complete_fresh (s : State) (e : Eng) (x : Chan) : (s.complete e x).fresh = s.fresh := by simp [State.complete]

@[simp] theorem State.setRun_par (s : State) (e : Eng) : (s.setRun e).par = s.par := by simp [State.setRun]
@[simp] theorem State.setRun_ports (s : State) (e : Eng) : (s.setRun e).ports = s.ports := by simp [State.setRun]
@[simp] theorem State.setRun_ring (s : State) (e : Eng) : (s.setRun e).ring = s.ring := by simp [State.setRun]
@[simp] theorem State.setRun_wr (s : State) (e : Eng) : (s.setRun e).wr = s.wr := by simp [State.setRun]
@[simp] theorem State.setRun_rd (s : State) (e : Eng) : (s.setRun e).rd = s.rd := by simp [State.setRun]
@[simp] theorem State.setRun_starved (s : State) (e : Eng) : (s.setRun e).starved = s.starved := by simp [State.setRun]
@[simp] theorem State.setRun_overrun (s : State) (e : Eng) : (s.setRun e).overrun = s.overrun := by simp [State.setRun]
@[simp] theorem State.setRun_feeder (s : State) (e : Eng) : (s.setRun e).feeder = s.feeder := by simp [State.setRun]
@[simp] theorem State.setRun_serialOut (s : State) (e : Eng) : (s.setRun e).serialOut = s.serialOut := by simp [State.setRun]
@[simp] theorem State.setRun_faults (s : State) (e : Eng) : (s.setRun e).faults = s.faults := by simp [State.setRun]
@[simp] theorem State.setRun_cur (s : State) (e : Eng) : (s.setRun e).cur = s.cur := by simp [State.setRun]
@[simp] theorem State.setRun_sampler (s : State) (e : Eng) : (s.setRun e).sampler = s.sampler := by simp [State.setRun]
@[simp] theorem State.setRun_agenda (s : State) (e : Eng) : (s.setRun e).agenda = s.agenda := by simp [State.setRun]
@[simp] theorem State.setRun_busData (s : State) (e : Eng) : (s.setRun e).busData = s.busData := by simp [State.setRun]
@[simp] theorem State.setRun_fresh (s : State) (e : Eng) : (s.setRun e).fresh = s.fresh := by simp [State.setRun]

@[simp] theorem State.hold_par (s : State) (x : Chan) : (s.hold x).par = s.par := rfl
@[simp] theorem State.hold_ports (s : State) (x : Chan) : (s.hold x).ports = s.ports.set s.cur { s.port s.cur with issuer := .holding x } := rfl
@[simp] theorem State.hold_ring (s : State) (x : Chan) : (s.hold x).ring = s.ring := rfl
@[simp] theorem State.hold_wr (s : State) (x : Chan) : (s.hold x).wr = s.wr := rfl
@[simp] theorem State.hold_rd (s : State) (x : Chan) : (s.hold x).rd = s.rd := rfl
@[simp] theorem State.hold_starved (s : State) (x : Chan) : (s.hold x).starved = s.starved := rfl
@[simp] theorem State.hold_overrun (s : State) (x : Chan) : (s.hold x).overrun = s.overrun := rfl
@[simp] theorem State.hold_outEng (s : State) (x : Chan) : (s.hold x).outEng = s.outEng := rfl
@[simp] theorem State.hold_capEng (s : State) (x : Chan) : (s.hold x).capEng = s.capEng := rfl
@[simp] theorem State.hold_feeder (s : State) (x : Chan) : (s.hold x).feeder = s.feeder := rfl
@[simp] theorem State.hold_serialOut (s : State) (x : Chan) : (s.hold x).serialOut = s.serialOut := rfl
@[simp] theorem State.hold_faults (s : State) (x : Chan) : (s.hold x).faults = s.faults := rfl
@[simp] theorem State.hold_cur (s : State) (x : Chan) : (s.hold x).cur = s.cur := rfl
@[simp] theorem State.hold_sampler (s : State) (x : Chan) : (s.hold x).sampler = s.sampler := rfl
@[simp] theorem State.hold_agenda (s : State) (x : Chan) : (s.hold x).agenda = s.agenda := rfl
@[simp] theorem State.hold_busData (s : State) (x : Chan) : (s.hold x).busData = s.busData := rfl
@[simp] theorem State.hold_fresh (s : State) (x : Chan) : (s.hold x).fresh = s.fresh := rfl

@[simp] theorem State.startFeed_par (s : State) (x : Chan) : (s.startFeed x).par = s.par := rfl
@[simp] theorem State.startFeed_ports (s : State) (x : Chan) : (s.startFeed x).ports = s.ports := rfl
@[simp] theorem State.startFeed_ring (s : State) (x : Chan) : (s.startFeed x).ring = s.ring := rfl
@[simp] theorem State.startFeed_wr (s : State) (x : Chan) : (s.startFeed x).wr = s.wr := rfl
@[simp] theorem State.startFeed_rd (s : State) (x : Chan) : (s.startFeed x).rd = s.rd := rfl
@[simp] theorem State.startFeed_starved (s : State) (x : Chan) : (s.startFeed x).starved = s.starved := rfl
@[simp] theorem State.startFeed_overrun (s : State) (x : Chan) : (s.startFeed x).overrun = s.overrun := rfl
@[simp] theorem State.startFeed_outEng (s : State) (x : Chan) : (s.startFeed x).outEng = s.outEng := rfl
@[simp] theorem State.startFeed_capEng (s : State) (x : Chan) : (s.startFeed x).capEng = s.capEng := rfl
@[simp] theorem State.startFeed_feeder (s : State) (x : Chan) : (s.startFeed x).feeder = { busy := true, port := s.cur, ch := x, n := min s.par.bufLen s.ringLength, i := 0 } := rfl
@[simp] theorem State.startFeed_serialOut (s : State) (x : Chan) : (s.startFeed x).serialOut = s.serialOut := rfl
@[simp] theorem State.startFeed_faults (s : State) (x : Chan) : (s.startFeed x).faults = s.faults := rfl
@[simp] theorem State.startFeed_cur (s : State) (x : Chan) : (s.startFeed x).cur = s.cur := rfl
@[simp] theorem State.startFeed_sampler (s : State) (x : Chan) : (s.startFeed x).sampler = s.sampler := rfl
@[simp] theorem State.startFeed_agenda (s : State) (x : Chan) : (s.startFeed x).agenda = s.agenda := rfl
@[simp] theorem State.startFeed_busData (s : State) (x : Chan) : (s.startFeed x).busData = s.busData := rfl
@[simp] theorem State.startFeed_fresh (s : State) (x : Chan) : (s.startFeed x).fresh = s.fresh := rfl

@[simp] theorem State.emit_par (s : State) (f : Frame) : (s.emit f).par = s.par := rfl
@[simp] theorem State.emit_ports (s : State) (f : Frame) : (s.emit f).ports = s.ports := rfl
@[simp] theorem State.emit_ring (s : State) (f : Frame) : (s.emit f).ring = s.ring := rfl
@[simp] theorem State.emit_wr (s : State) (f : Frame) : (s.emit f).wr = s.wr := rfl
@[simp] theorem State.emit_rd (s : State) (f : Frame) : (s.emit f).rd = s.rd := rfl
@[simp] theorem State.emit_starved (s : State) (f : Frame) : (s.emit f).starved = s.starved := rfl
@[simp] theorem State.emit_overrun (s : State) (f : Frame) : (s.emit f).overrun = s.overrun := rfl
@[simp] theorem State.emit_outEng (s : State) (f : Frame) : (s.emit f).outEng = s.outEng := rfl
@[simp] theorem State.emit_capEng (s : State) (f : Frame) : (s.emit f).capEng = s.capEng := rfl
@[simp] theorem State.emit_feeder (s : State) (f : Frame) : (s.emit f).feeder = s.feeder := rfl
@[simp] theorem State.emit_serialOut (s : State) (f : Frame) : (s.emit f).serialOut = s.serialOut ++ [f] := rfl
@[simp] theorem State.emit_faults (s : State) (f : Frame) : (s.emit f).faults = s.faults := rfl
@[simp] theorem State.emit_cur (s : State) (f : Frame) : (s.emit f).cur = s.cur := rfl
@[simp] theorem State.emit_sampler (s : State) (f : Frame) : (s.emit f).sampler = s.sampler := rfl
@[simp] theorem State.emit_agenda (s : State) (f : Frame) : (s.emit f).agenda = s.agenda := rfl
@[simp] theorem State.emit_busData (s : State) (f : Frame) : (s.emit f).busData = s.busData := rfl
@[simp] theorem State.emit_fresh (s : State) (f : Frame) : (s.emit f).fresh = s.fresh := rfl

@[simp] theorem State.afterOutDraw_par (s : State) (x : Chan) : (s.afterOutDraw x).par = s.par := by
  unfold State.afterOutDraw; split <;> rfl
@[simp] theorem State.afterOutDraw_ports (s : State) (x : Chan) : (s.afterOutDraw x).ports = s.ports := by
  unfold State.afterOutDraw; split <;> rfl
@[simp] theorem State.afterOutDraw_ring (s : State) (x : Chan) : (s.afterOutDraw x).ring = s.ring := by
  unfold State.afterOutDraw; split <;> rfl
@[simp] theorem State.afterOutDraw_wr (s : State) (x : Chan) : (s.afterOutDraw x).wr = s.wr := by
  unfold State.afterOutDraw; split <;> rfl
@[simp] theorem State.afterOutDraw_rd (s : State) (x : Chan) : (s.afterOutDraw x).rd = s.rd := by
  unfold State.afterOutDraw; split <;> rfl
@[simp] theorem State.afterOutDraw_starved (s : State) (x : Chan) : (s.afterOutDraw x).starved = s.starved := by
  unfold State.afterOutDraw; split <;> rfl
@[simp] theorem State.afterOutDraw_overrun (s : State) (x : Chan) : (s.afterOutDraw x).overrun = s.overrun := by
  unfold State.afterOutDraw; split <;> rfl
@[simp] theorem State.afterOutDraw_outEng (s : State) (x : Chan) : (s.afterOutDraw x).outEng = s.outEng := by
  unfold State.afterOutDraw; split <;> rfl
@[simp] theorem State.afterOutDraw_capEng (s : State) (x : Chan) : (s.afterOutDraw x).capEng = s.capEng := by
  unfold State.afterOutDraw; split <;> rfl
@[simp] theorem State.afterOutDraw_feeder (s : State) (x : Chan) : (s.afterOutDraw x).feeder = s.feeder := by
  unfold State.afterOutDraw; split <;> rfl
@[simp] theorem State.afterOutDraw_serialOut (s : State) (x : Chan) : (s.afterOutDraw x).serialOut = s.serialOut := by
  unfold State.afterOutDraw; split <;> rfl
@[simp] theorem State.afterOutDraw_faults (s : State) (x : Chan) : (s.afterOutDraw x).faults = s.faults := by
  unfold State.afterOutDraw; split <;> rfl
@[simp] theorem State.afterOutDraw_cur (s : State) (x : Chan) : (s.afterOutDraw x).cur = s.cur := by
  unfold State.afterOutDraw; split <;> rfl
@[simp] theorem State.afterOutDraw_sampler (s : State) (x : Chan) : (s.afterOutDraw x).sampler = s.sampler := by
  unfold State.afterOutDraw; split <;> rfl
@[simp] theorem State.afterOutDraw_agenda (s : State) (x : Chan) : (s.afterOutDraw x).agenda = s.agenda := by
  unfold State.afterOutDraw; split <;> rfl
@[simp] theorem State.afterOutDraw_busData (s : State) (x : Chan) : (s.afterOutDraw x).busData = s.busData := by
  unfold State.afterOutDraw; split <;> rfl
@[simp] theorem State.afterOutDraw_fresh (s : State) (x : Chan) : (s.afterOutDraw x).fresh = if (s.outEng.ch x).valid then s.fresh else s.fresh + 2 := by
  unfold State.afterOutDraw; split <;> rfl

@[simp] theorem State.afterSample_par (s : State) : (s.afterSample).par = s.par := by
  unfold State.afterSample; split <;> simp_all
@[simp] theorem State.afterSample_ports (s : State) : (s.afterSample).ports = s.ports := by
  unfold State.afterSample; split <;> simp_all
@[simp] theorem State.afterSample_ring (s : State) : (s.afterSample).ring = s.ring := by
  unfold State.afterSample; split <;> simp_all
@[simp] theorem State.afterSample_wr (s : State) : (s.afterSample).wr = s.wr := by
  unfold State.afterSample; split <;> simp_all
@[simp] theorem State.afterSample_rd (s : State) : (s.afterSample).rd = s.rd := by
  unfold State.afterSample; split <;> simp_all
@[simp] theorem State.afterSample_starved (s : State) : (s.afterSample).starved = s.starved := by
  unfold State.afterSample; split <;> simp_all
@[simp] theorem State.afterSample_overrun (s : State) : (s.afterSample).overrun = s.overrun := by
  unfold State.afterSample; split <;> simp_all
@[simp] theorem State.afterSample_outEng (s : State) : (s.afterSample).outEng = s.outEng := by
  unfold State.afterSample; split <;> simp_all
@[simp] theorem State.afterSample_capEng (s : State) : (s.afterSample).capEng = s.capEng := by
  unfold State.afterSample; split <;> simp_all
@[simp] theorem State.afterSample_feeder (s : State) : (s.afterSample).feeder = s.feeder := by
  unfold State.afterSample; split <;> simp_all
@[simp] theorem State.afterSample_serialOut (s : State) : (s.afterSample).serialOut = s.serialOut := by
  unfold State.afterSample; split <;> simp_all
@[simp] theorem State.afterSample_faults (s : State) : (s.afterSample).faults = s.faults := by
  unfold State.afterSample; split <;> simp_all
@[simp] theorem State.afterSample_cur (s : State) : (s.afterSample).cur = s.cur := by
  unfold State.afterSample; split <;> simp_all
@[simp] theorem State.afterSample_sampler (s : State) : (s.afterSample).sampler = s.sampler.tail := by
  unfold State.afterSample; split <;> simp_all
@[simp] theorem State.afterSample_agenda (s : State) : (s.afterSample).agenda = s.agenda := by
  unfold State.afterSample; split <;> simp_all
@[simp] theorem State.afterSample_busData (s : State) : (s.afterSample).busData = s.busData := by
  unfold State.afterSample; split <;> simp_all
@[simp] theorem State.afterSample_fresh (s : State) : (s.afterSample).fresh = if s.sampler = [] then s.fresh + 1 else s.fresh := by
  unfold State.afterSample; split <;> simp_all

@[simp] theorem State.advancePos_par (s : State) (e : Eng) (x : Chan) : (s.advancePos e x).par = s.par := by
  unfold State.advancePos; simp only; split <;> simp
@[simp] theorem State.advancePos_ports (s : State) (e : Eng) (x : Chan) : (s.advancePos e x).ports = s.ports := by
  unfold State.advancePos; simp only; split <;> simp
@[simp] theorem State.advancePos_ring (s : State) (e : Eng) (x : Chan) : (s.advancePos e x).ring = s.ring := by
  unfold State.advancePos; simp only; split <;> simp
@[simp] theorem State.advancePos_wr (s : State) (e : Eng) (x : Chan) : (s.advancePos e x).wr = s.wr := by
  unfold State.advancePos; simp only; split <;> simp
@[simp] theorem State.advancePos_rd (s : State) (e : Eng) (x : Chan) : (s.advancePos e x).rd = s.rd := by
  unfold State.advancePos; simp only; split <;> simp
@[simp] theorem State.advancePos_starved (s : State) (e : Eng) (x : Chan) : (s.advancePos e x).starved = s.starved := by
  unfold State.advancePos; simp only; split <;> simp
@[simp] theorem State.advancePos_overrun (s : State) (e : Eng) (x : Chan) : (s.advancePos e x).overrun = s.overrun := by
  unfold State.advancePos; simp only; split <;> simp
@[simp] theorem State.advancePos_feeder (s : State) (e : Eng) (x : Chan) : (s.advancePos e x).feeder = s.feeder := by
  unfold State.advancePos; simp only; split <;> simp
@[simp] theorem State.advancePos_serialOut (s : State) (e : Eng) (x : Chan) : (s.advancePos e x).serialOut = s.serialOut := by
  unfold State.advancePos; simp only; split <;> simp
@[simp] theorem State.advancePos_cur (s : State) (e : Eng) (x : Chan) : (s.advancePos e x).cur = s.cur := by
  unfold State.advancePos; simp only; split <;> simp
@[simp] theorem State.advancePos_sampler (s : State) (e : Eng) (x : Chan) : (s.advancePos e x).sampler = s.sampler := by
  unfold State.advancePos; simp only; split <;> simp
@[simp] theorem State.advancePos_agenda (s : State) (e : Eng) (x : Chan) : (s.advancePos e x).agenda = s.agenda := by
  unfold State.advancePos; simp only; split <;> simp
@[simp] theorem State.advancePos_busData (s : State) (e : Eng) (x : Chan) : (s.advancePos e x).busData = s.busData := by
  unfold State.advancePos; simp only; split <;> simp
@[simp] theorem State.advancePos_fresh (s : State) (e : Eng) (x : Chan) : (s.advancePos e x).fresh = s.fresh := by
  unfold State.advancePos; simp only; split <;> simp

@[simp] theorem State.issued_par (s : State) (p : Nat) (d : Option Word) (w : Word) : (s.issued p d w).par = s.par := rfl
@[simp] theorem State.issued_ports (s : State) (p : Nat) (d : Option Word) (w : Word) : (s.issued p d w).ports = s.ports.set p { s.port p with cmd := w, data := d.getD (s.port p).data } := rfl
@[simp] theorem State.issued_ring (s : State) (p : Nat) (d : Option Word) (w : Word) : (s.issued p d w).ring = s.ring := rfl
@[simp] theorem State.issued_wr (s : State) (p : Nat) (d : Option Word) (w : Word) : (s.issued p d w).wr = s.wr := rfl
@[simp] theorem State.issued_rd (s : State) (p : Nat) (d : Option Word) (w : Word) : (s.issued p d w).rd = s.rd := rfl
@[simp] theorem State.issued_starved (s : State) (p : Nat) (d : Option Word) (w : Word) : (s.issued p d w).starved = s.starved := rfl
@[simp] theorem State.issued_overrun (s : State) (p : Nat) (d : Option Word) (w : Word) : (s.issued p d w).overrun = s.overrun := rfl
@[simp] theorem State.issued_outEng (s : State) (p : Nat) (d : Option Word) (w : Word) : (s.issued p d w).outEng = s.outEng := rfl
@[simp] theorem State.issued_capEng (s : State) (p : Nat) (d : Option Word) (w : Word) : (s.issued p d w).capEng = s.capEng := rfl
@[simp] theorem State.issued_feeder (s : State) (p : Nat) (d : Option Word) (w : Word) : (s.issued p d w).feeder = s.feeder := rfl
@[simp] theorem State.issued_serialOut (s : State) (p : Nat) (d : Option Word) (w : Word) : (s.issued p d w).serialOut = s.serialOut := rfl
@[simp] theorem State.issued_faults (s : State) (p : Nat) (d : Option Word) (w : Word) : (s.issued p d w).faults = s.faults := rfl
@[simp] theorem State.issued_cur (s : State) (p : Nat) (d : Option Word) (w : Word) : (s.issued p d w).cur = p := rfl
@[simp] theorem State.issued_sampler (s : State) (p : Nat) (d : Option Word) (w : Word) : (s.issued p d w).sampler = s.sampler := rfl
@[simp] theorem State.issued_agenda (s : State) (p : Nat) (d : Option Word) (w : Word) : (s.issued p d w).agenda = s.agenda := rfl
@[simp] theorem State.issued_busData (s : State) (p : Nat) (d : Option Word) (w : Word) : (s.issued p d w).busData = s.busData := rfl
@[simp] theorem State.issued_fresh (s : State) (p : Nat) (d : Option Word) (w : Word) : (s.issued p d w).fresh = s.fresh := rfl

@[simp] theorem State.stick_par (s : State) (p : Nat) : (s.stick p).par = s.par := rfl
@[simp] theorem State.stick_ports (s : State) (p : Nat) : (s.stick p).ports = s.ports.set p { s.port p with issuer := .stuck } := rfl
@[simp] theorem State.stick_ring (s : State) (p : Nat) : (s.stick p).ring = s.ring := rfl
@[simp] theorem State.stick_wr (s : State) (p : Nat) : (s.stick p).wr = s.wr := rfl
@[simp] theorem State.stick_rd (s : State) (p : Nat) : (s.stick p).rd = s.rd := rfl
@[simp] theorem State.stick_starved (s : State) (p : Nat) : (s.stick p).starved = s.starved := rfl
@[simp] theorem State.stick_overrun (s : State) (p : Nat) : (s.stick p).overrun = s.overrun := rfl
@[simp] theorem State.stick_outEng (s : State) (p : Nat) : (s.stick p).outEng = s.outEng := rfl
@[simp] theorem State.stick_capEng (s : State) (p : Nat) : (s.stick p).capEng = s.capEng := rfl
@[simp] theorem State.stick_feeder (s : State) (p : Nat) : (s.stick p).feeder = s.feeder := rfl
@[simp] theorem State.stick_serialOut (s : State) (p : Nat) : (s.stick p).serialOut = s.serialOut := rfl
@[simp] theorem State.stick_faults (s : State) (p : Nat) : (s.stick p).faults = s.faults := rfl
@[simp] theorem State.stick_cur (s : State) (p : Nat) : (s.stick p).cur = s.cur := rfl
@[simp] theorem State.stick_sampler (s : State) (p : Nat) : (s.stick p).sampler = s.sampler := rfl
@[simp] theorem State.stick_agenda (s : State) (p : Nat) : (s.stick p).agenda = s.agenda := rfl
@[simp] theorem State.stick_busData (s : State) (p : Nat) : (s.stick p).busData = s.busData := rfl
@[simp] theorem State.stick_fresh (s : State) (p : Nat) : (s.stick p).fresh = s.fresh := rfl

@[simp] theorem State.released_par (s : State) (p : Nat) : (s.released p).par = s.par := rfl
@[simp] theorem State.released_ports (s : State) (p : Nat) : (s.released p).ports = s.ports.set p { s.port p with issuer := .ready } := rfl
@[simp] theorem State.released_ring (s : State) (p : Nat) : (s.released p).ring = s.ring := rfl
@[simp] theorem State.released_wr (s : State) (p : Nat) : (s.released p).wr = s.wr := rfl
@[simp] theorem State.released_rd (s : State) (p : Nat) : (s.released p).rd = s.rd := rfl
@[simp] theorem State.released_starved (s : State) (p : Nat) : (s.released p).starved = s.starved := rfl
@[simp] theorem State.released_overrun (s : State) (p : Nat) : (s.released p).overrun = s.overrun := rfl
@[simp] theorem State.released_outEng (s : State) (p : Nat) : (s.released p).outEng = s.outEng := rfl
@[simp] theorem State.released_capEng (s : State) (p : Nat) : (s.released p).capEng = s.capEng := rfl
@[simp] theorem State.released_feeder (s : State) (p : Nat) : (s.released p).feeder = s.feeder := rfl
@[simp] theorem State.released_serialOut (s : State) (p : Nat) : (s.released p).serialOut = s.serialOut := rfl
@[simp] theorem State.released_faults (s : State) (p : Nat) : (s.released p).faults = s.faults := rfl
@[simp] theorem State.released_cur (s : State) (p : Nat) : (s.released p).cur = p := rfl
@[simp] theorem State.released_sampler (s : State) (p : Nat) : (s.released p).sampler = s.sampler := rfl
@[simp] theorem State.released_agenda (s : State) (p : Nat) : (s.released p).agenda = s.agenda := rfl
@[simp] theorem State.released_busData (s : State) (p : Nat) : (s.released p).busData = s.busData := rfl
@[simp] theorem State.released_fresh (s : State) (p : Nat) : (s.released p).fresh = s.fresh := rfl

@[simp] theorem State.moveTaken_par (s : State) : (s.moveTaken).par = s.par := by
  unfold State.moveTaken; split <;> simp_all
@[simp] theorem State.moveTaken_ports (s : State) : (s.moveTaken).ports = s.ports := by
  unfold State.moveTaken; split <;> simp_all
@[simp] theorem State.moveTaken_ring (s : State) : (s.moveTaken).ring = s.ring := by
  unfold State.moveTaken; split <;> simp_all
@[simp] theorem State.moveTaken_wr (s : State) : (s.moveTaken).wr = s.wr := by
  unfold State.moveTaken; split <;> simp_all
@[simp] theorem State.moveTaken_rd (s : State) : (s.moveTaken).rd = s.rd := by
  unfold State.moveTaken; split <;> simp_all
@[simp] theorem State.moveTaken_starved (s : State) : (s.moveTaken).starved = s.starved := by
  unfold State.moveTaken; split <;> simp_all
@[simp] theorem State.moveTaken_overrun (s : State) : (s.moveTaken).overrun = s.overrun := by
  unfold State.moveTaken; split <;> simp_all
@[simp] theorem State.moveTaken_outEng (s : State) : (s.moveTaken).outEng = s.outEng := by
  unfold State.moveTaken; split <;> simp_all
@[simp] theorem State.moveTaken_capEng (s : State) : (s.moveTaken).capEng = s.capEng := by
  unfold State.moveTaken; split <;> simp_all
@[simp] theorem State.moveTaken_feeder (s : State) : (s.moveTaken).feeder = s.feeder := by
  unfold State.moveTaken; split <;> simp_all
@[simp] theorem State.moveTaken_serialOut (s : State) : (s.moveTaken).serialOut = s.serialOut := by
  unfold State.moveTaken; split <;> simp_all
@[simp] theorem State.moveTaken_faults (s : State) : (s.moveTaken).faults = s.faults := by
  unfold State.moveTaken; split <;> simp_all
@[simp] theorem State.moveTaken_cur (s : State) : (s.moveTaken).cur = s.cur := by
  unfold State.moveTaken; split <;> simp_all
@[simp] theorem State.moveTaken_sampler (s : State) : (s.moveTaken).sampler = s.sampler := by
  unfold State.moveTaken; split <;> simp_all
@[simp] theorem State.moveTaken_agenda (s : State) : (s.moveTaken).agenda = s.agenda.tail := by
  unfold State.moveTaken; split <;> simp_all
@[simp] theorem State.moveTaken_busData (s : State) : (s.moveTaken).busData = s.busData := by
  unfold State.moveTaken; split <;> simp_all
@[simp] theorem State.moveTaken_fresh (s : State) : (s.moveTaken).fresh = if s.agenda = [] then s.fresh + 1 else s.fresh := by
  unfold State.moveTaken; split <;> simp_all

@[simp] theorem State.afterFeedRead_par (s : State) : (s.afterFeedRead).par = s.par := by
  unfold State.afterFeedRead; split <;> simp_all
@[simp] theorem State.afterFeedRead_ports (s : State) : (s.afterFeedRead).ports = s.ports := by
  unfold State.afterFeedRead; split <;> simp_all
@[simp] theorem State.afterFeedRead_ring (s : State) : (s.afterFeedRead).ring = s.ring := by
  unfold State.afterFeedRead; split <;> simp_all
@[simp] theorem State.afterFeedRead_wr (s : State) : (s.afterFeedRead).wr = s.wr := by
  unfold State.afterFeedRead; split <;> simp_all
@[simp] theorem State.afterFeedRead_rd (s : State) : (s.afterFeedRead).rd = if s.feeder.i < s.feeder.n then (s.rd + 1) % s.par.capacity else s.rd := by
  unfold State.afterFeedRead; split <;> simp_all
@[simp] theorem State.afterFeedRead_starved (s : State) : (s.afterFeedRead).starved = s.starved := by
  unfold State.afterFeedRead; split <;> simp_all
@[simp] theorem State.afterFeedRead_overrun (s : State) : (s.afterFeedRead).overrun = s.overrun := by
  unfold State.afterFeedRead; split <;> simp_all
@[simp] theorem State.afterFeedRead_outEng (s : State) : (s.afterFeedRead).outEng = s.outEng := by
  unfold State.afterFeedRead; split <;> simp_all
@[simp] theorem State.afterFeedRead_capEng (s : State) : (s.afterFeedRead).capEng = s.capEng := by
  unfold State.afterFeedRead; split <;> simp_all
@[simp] theorem State.afterFeedRead_feeder (s : State) : (s.afterFeedRead).feeder = s.feeder := by
  unfold State.afterFeedRead; split <;> simp_all
@[simp] theorem State.afterFeedRead_serialOut (s : State) : (s.afterFeedRead).serialOut = s.serialOut := by
  unfold State.afterFeedRead; split <;> simp_all
@[simp] theorem State.afterFeedRead_faults (s : State) : (s.afterFeedRead).faults = s.faults := by
  unfold State.afterFeedRead; split <;> simp_all
@[simp] theorem State.afterFeedRead_cur (s : State) : (s.afterFeedRead).cur = s.cur := by
  unfold State.afterFeedRead; split <;> simp_all
@[simp] theorem State.afterFeedRead_sampler (s : State) : (s.afterFeedRead).sampler = s.sampler := by
  unfold State.afterFeedRead; split <;> simp_all
@[simp] theorem State.afterFeedRead_agenda (s : State) : (s.afterFeedRead).agenda = s.agenda := by
  unfold State.afterFeedRead; split <;> simp_all
@[simp] theorem State.afterFeedRead_busData (s : State) : (s.afterFeedRead).busData = s.busData := by
  unfold State.afterFeedRead; split <;> simp_all
@[simp] theorem State.afterFeedRead_fresh (s : State) : (s.afterFeedRead).fresh = if s.feeder.i < s.feeder.n ∧ s.ringEmpty = true then s.fresh + 1 else s.fresh := by
  unfold State.afterFeedRead; split <;> simp_all

end Sys2Proof.Machine
end

