-- ==== Sys2Proof/Laws/Engine.lean ====
section
/-!
SUPPORT. The laws of the engines: channels and buffers read back, what a trigger and a completion do.
-/
namespace Sys2Proof.Machine

open Sys2Proof

@[simp] theorem other_other (x : Chan) : other (other x) = x := by cases x <;> rfl

theorem other_ne (x : Chan) : other x ≠ x := by cases x <;> decide

theorem eq_or_eq_other (x y : Chan) : y = x ∨ y = other x := by cases x <;> cases y <;> decide

@[simp] theorem Engine.ch_setCh_self (g : Engine) (x : Chan) (c : Channel) : (g.setCh x c).ch x = c := by cases x <;> rfl

theorem Engine.ch_setCh_ne (g : Engine) {x y : Chan} (h : y ≠ x) (c : Channel) : (g.setCh x c).ch y = g.ch y := by
  cases x <;> cases y <;> first | rfl | exact absurd rfl h

@[simp] theorem Engine.ch_setCh_other (g : Engine) (x : Chan) (c : Channel) : (g.setCh x c).ch (other x) = g.ch (other x) := by
  cases x <;> rfl

@[simp] theorem Engine.ch_setCh_other' (g : Engine) (x : Chan) (c : Channel) : (g.setCh (other x) c).ch x = g.ch x := by
  cases x <;> rfl

@[simp] theorem Engine.buf_setCh (g : Engine) (x y : Chan) (c : Channel) : (g.setCh x c).buf y = g.buf y := by
  cases x <;> cases y <;> rfl

@[simp] theorem Engine.run_setCh (g : Engine) (x : Chan) (c : Channel) : (g.setCh x c).run = g.run := by cases x <;> rfl

@[simp] theorem Engine.inited_setCh (g : Engine) (x : Chan) (c : Channel) : (g.setCh x c).inited = g.inited := by
  cases x <;> rfl

@[simp] theorem Engine.buf_setBuf_self (g : Engine) (x : Chan) (m : Memory) : (g.setBuf x m).buf x = m := by cases x <;> rfl

theorem Engine.buf_setBuf_ne (g : Engine) {x y : Chan} (h : y ≠ x) (m : Memory) : (g.setBuf x m).buf y = g.buf y := by
  cases x <;> cases y <;> first | rfl | exact absurd rfl h

@[simp] theorem Engine.buf_setBuf_other (g : Engine) (x : Chan) (m : Memory) :
    (g.setBuf x m).buf (other x) = g.buf (other x) := by cases x <;> rfl

@[simp] theorem Engine.ch_setBuf (g : Engine) (x y : Chan) (m : Memory) : (g.setBuf x m).ch y = g.ch y := by
  cases x <;> cases y <;> rfl

@[simp] theorem Engine.run_setBuf (g : Engine) (x : Chan) (m : Memory) : (g.setBuf x m).run = g.run := by cases x <;> rfl

@[simp] theorem Engine.inited_setBuf (g : Engine) (x : Chan) (m : Memory) : (g.setBuf x m).inited = g.inited := by
  cases x <;> rfl

@[simp] theorem State.eng_setEng_self (s : State) (e : Eng) (g : Engine) : (s.setEng e g).eng e = g := by cases e <;> rfl

theorem State.eng_setEng_ne (s : State) {e f : Eng} (h : f ≠ e) (g : Engine) : (s.setEng e g).eng f = s.eng f := by
  cases e <;> cases f <;> first | rfl | exact absurd rfl h

@[simp] theorem State.eng_noteMissed (s : State) (b : Bool) (e : Eng) : (s.noteMissed b).eng e = s.eng e := by cases e <;> rfl

/-- What a trigger does to its own engine: the channel starts, valid exactly if it was armed (R152). -/
@[simp] theorem State.eng_trigger_self (s : State) (e : Eng) (y : Chan) :
    (s.trigger e y).eng e = (s.eng e).setCh y ((s.eng e).ch y).triggered := by simp [State.trigger]

theorem State.eng_trigger_ne (s : State) {e f : Eng} (h : f ≠ e) (y : Chan) : (s.trigger e y).eng f = s.eng f := by
  simp [State.trigger, State.eng_setEng_ne s h]

/-- What a completion does to its own engine: the channel ends and the other one starts (R152). -/
@[simp] theorem State.eng_complete_self (s : State) (e : Eng) (x : Chan) :
    (s.complete e x).eng e =
      ((s.eng e).setCh x ((s.eng e).ch x).completed).setCh (other x) ((s.eng e).ch (other x)).triggered := by
  simp [State.complete]

theorem State.eng_complete_ne (s : State) {e f : Eng} (h : f ≠ e) (x : Chan) : (s.complete e x).eng f = s.eng f := by
  simp [State.complete, State.eng_trigger_ne _ h, State.eng_setEng_ne s h]

/-- A completion records a missed re-arm exactly when the other channel is not armed (R153). -/
theorem State.complete_faults (s : State) (e : Eng) (x : Chan) :
    (s.complete e x).faults =
      { s.faults with missedRearm := s.faults.missedRearm || !((s.eng e).ch (other x)).armed } := by
  simp [State.complete]

/-- The active channel is `x` exactly when `x` is active and the other is not. -/
theorem Engine.activeCh_eq_some {g : Engine} {x : Chan} :
    g.activeCh = some x ↔ (g.ch x).active = true ∧ (g.ch (other x)).active = false := by
  unfold Engine.activeCh
  cases x <;> cases hA : g.chA.active <;> cases hB : g.chB.active <;> simp [Engine.ch, other, hA, hB]

/-- A running engine in its invariant has an active channel (R42). -/
theorem Engine.Inv.exists_active {S : Nat} {g : Engine} (h : g.Inv S) (hr : g.run = true) : ∃ x, g.activeCh = some x := by
  have := (h.running hr).2
  unfold Engine.activeCh
  cases hA : g.chA.active <;> cases hB : g.chB.active <;> simp_all

/-- An active channel of an engine in its invariant: the engine runs, the other channel does not transfer, and the position is
inside the buffer. -/
theorem Engine.Inv.of_active {S : Nat} {g : Engine} (h : g.Inv S) {x : Chan} (hx : (g.ch x).active = true) :
    g.run = true ∧ (g.ch (other x)).active = false ∧ (g.ch x).pos < S ∧ (g.ch x).armed = false := by
  have hrun : g.run = true := by
    cases hr : g.run with
    | true => rfl
    | false => cases x <;> simp_all [Engine.ch, h.idle hr]
  have := (h.running hrun).2
  cases x
  · exact ⟨hrun, by cases hb : g.chB.active <;> simp_all [Engine.ch, other], h.chA.2 hx⟩
  · exact ⟨hrun, by cases ha : g.chA.active <;> simp_all [Engine.ch, other], h.chB.2 hx⟩

end Sys2Proof.Machine
end

