-- ==== Sys2Proof/Laws/Operands.lean ====
section
/-!
SUPPORT. The laws of samples: their width, and what sign extension and widening do to them.
-/
namespace Sys2Proof.Machine

open Sys2Proof

/-- A sample is of `W_IN` bits (R65). -/
theorem sampleOf_lt (p : Params) (v : Word) : (sampleOf p v).toNat < 2 ^ p.wIn := by
  simp only [sampleOf, BitVec.toNat_setWidth]
  exact lt_of_le_of_lt (Nat.mod_le _ _) (Nat.mod_lt _ (Nat.two_pow_pos _))

/-- The low `W_IN` bits of a sample are those of the word it was taken from. -/
theorem setWidth_sampleOf (p : Params) (v : Word) : (sampleOf p v).setWidth p.wIn = v.setWidth p.wIn := by
  refine BitVec.eq_of_getLsbD_eq fun k hk => ?_
  simp only [sampleOf, BitVec.getLsbD_setWidth]
  by_cases h : k < 32
  · simp [hk, h]
  · simp [hk, h, BitVec.getLsbD_of_ge v k (by omega)]

@[simp] theorem sextSample_sampleOf (p : Params) (v : Word) : sextSample p (sampleOf p v) = sextSample p v := by
  simp only [sextSample, setWidth_sampleOf]

@[simp] theorem sampleOf_sampleOf (p : Params) (v : Word) : sampleOf p (sampleOf p v) = sampleOf p v := by
  rw [sampleOf, setWidth_sampleOf]; rfl

@[simp] theorem widen_sampleOf (p : Params) (v : Word) : widen p (sampleOf p v) = widen p v := by simp [widen]

/-- A word of `W_IN` bits is the sample taken from it. -/
theorem sampleOf_of_lt {p : Params} {v : Word} (h : v.toNat < 2 ^ p.wIn) : sampleOf p v = v := by
  apply BitVec.eq_of_toNat_eq
  simp only [sampleOf, BitVec.toNat_setWidth]
  rw [Nat.mod_eq_of_lt h, Nat.mod_eq_of_lt v.isLt]

end Sys2Proof.Machine
end

