-- ==== Sys2Proof/Laws/Ports.lean ====
section
/-!
SUPPORT. The laws of the command ports, and what the completion of a command does.
-/
namespace Sys2Proof.Machine

open Sys2Proof

@[simp] theorem State.setPort_length (s : State) (p : Nat) (q : Port) :
    (s.setPort p q).ports.length = s.ports.length := by simp

theorem State.port_setPort_self {s : State} {p : Nat} (h : p < s.ports.length) (q : Port) : (s.setPort p q).port p = q := by
  simp [State.port, List.getD, h]

theorem State.port_setPort_ne {s : State} {p k : Nat} (h : k ≠ p) (q : Port) : (s.setPort p q).port k = s.port k := by
  simp [State.port, List.getD, List.getElem?_set_ne (Ne.symm h)]

/-- The ports of a state are all that its `port` reads. -/
theorem State.port_congr {s t : State} (h : t.ports = s.ports) (p : Nat) : t.port p = s.port p := by
  simp [State.port, h]

theorem State.port_completeOn_self {s : State} {p : Nat} (h : p < s.ports.length) (c : BitVec 8) (r r2 : Word) :
    (s.completeOn p c r r2).port p = { s.port p with res := r, res2 := r2, stat := c } := State.port_setPort_self h _

theorem State.port_completeOn_ne {s : State} {p k : Nat} (h : k ≠ p) (c : BitVec 8) (r r2 : Word) :
    (s.completeOn p c r r2).port k = s.port k := State.port_setPort_ne h _

/-- A port found after the registers of one port changed is that one or was there before. -/
theorem State.mem_setPort {s : State} {p : Nat} {q r : Port} (h : r ∈ (s.setPort p q).ports) : r = q ∨ r ∈ s.ports := by
  rw [State.setPort_ports] at h
  exact (List.mem_or_eq_of_mem_set h).symm

/-- What the completion of a command does: its port gets the status and the results, and the ports are otherwise kept. `u` is
the state the command's own effect leaves, which changes no port. -/
theorem State.completeOn_spec {s u : State} (hp : u.ports = s.ports) (hc : s.cur < s.ports.length) (c : Status)
    (r r2 : Word) :
    Answers s (u.completeOn s.cur (statusCode c) r r2) c r r2 ∧ PortsKept s (u.completeOn s.cur (statusCode c) r r2) := by
  have hc' : s.cur < u.ports.length := hp ▸ hc
  have hself := State.port_completeOn_self hc' (statusCode c) r r2
  have hport := State.port_congr hp
  refine ⟨?_, by simp [State.completeOn, hp], fun p hne => ?_, ?_, ?_, ?_⟩
  · simp [Answers, hself]
  · rw [State.port_completeOn_ne hne, hport]
  all_goals simp [hself, hport]

/-- A completed command that changed nothing of its own. -/
theorem State.completeOn_onlyResults {s : State} (hc : s.cur < s.ports.length) (c : Status) (r r2 : Word) :
    Answers s (s.completeOn s.cur (statusCode c) r r2) c r r2 ∧
      OnlyResults s (s.completeOn s.cur (statusCode c) r r2) :=
  have h := State.completeOn_spec rfl hc c r r2
  ⟨h.1, rfl, h.2⟩

end Sys2Proof.Machine
end

