-- ==== Sys2Proof/Laws/Exec.lean ====
section
/-!
SUPPORT. What a command can do, said once (`exec_cases`), and what a step can do, said once (`step_cases`): the inversion lemmas that
the invariants and the whole-machine rules are proved from.
-/
namespace Sys2Proof.Machine

open Sys2Proof

/-- The states a command's own effect can leave, before its status and results are written to its port. -/
inductive Effect (s : State) : Instr → Status → State → Prop where
  /-- A query, NOP, CVT, or a refused command of an engine. -/
  | none (i : Instr) (c : Status) (h : c = .ok ∨ (∃ e, (i = .dmaInit e ∨ i = .dmaStart e) ∧ c = .errState) ∨
      (∃ e x len, i = .dmaArm e x len ∧ (c = .errState ∨ c = .errBusy ∨ c = .errRange)) ∨
      (∃ e x k, (i = .bufWrite e x k ∨ i = .bufRead e x k) ∧ (c = .errBusy ∨ c = .errRange))) : Effect s i c s
  /-- BLK_CLEAR. -/
  | clear (m : BitVec 16) : Effect s (.blkClear m) .ok (s.clearSticky m)
  /-- RB_STORE past the wrap point. -/
  | storeRefused (j : BitVec 16) : Effect s (.rbStore j) .errRange s.writeSide
  /-- RB_STORE. -/
  | store (j : BitVec 16) (h : j.toNat < s.par.capacity - s.wr) :
      Effect s (.rbStore j) .ok { s.writeSide with ring := s.ring.write (s.wr + j.toNat) (sampleOf s.par s.data) }
  /-- RB_ADVANCE_WRITE. -/
  | advance (n : BitVec 16) :
      Effect s (.rbAdvanceWrite n) .ok ((s.writeSide.noteOverrun n.toNat).advanceWr n.toNat)
  /-- RB_READ_ONE. -/
  | read : Effect s .rbReadOne .ok s.readSide.afterRingRead
  /-- DMA_INIT of an engine that does not run. -/
  | init (e : Eng) (h : (s.eng e).run = false) : Effect s (.dmaInit e) .ok (s.setEng e (s.eng e).initialised)
  /-- DMA_START of an initialised engine that does not run. -/
  | start (e : Eng) (h : (s.eng e).run = false) (hi : (s.eng e).inited = true) :
      Effect s (.dmaStart e) .ok ((s.trigger e .a).setRun e)
  /-- DMA_ARM of a channel that does not transfer. -/
  | arm (e : Eng) (x : Chan) (len : BitVec 16) (hi : (s.eng e).inited = true) (ha : ((s.eng e).ch x).active = false) :
      Effect s (.dmaArm e x len) .ok (s.setEng e ((s.eng e).setCh x { (s.eng e).ch x with armed := true }))
  /-- DMA_ACK. -/
  | ack (e : Eng) (x : Chan) :
      Effect s (.dmaAck e x) .ok (s.setEng e ((s.eng e).setCh x { (s.eng e).ch x with pend := false }))
  /-- BUF_WRITE of a buffer that is not in flight. -/
  | bufWrite (e : Eng) (x : Chan) (i : BitVec 16) (ha : ((s.eng e).ch x).active = false) (hi : i.toNat < bufSize s.par e) :
      Effect s (.bufWrite e x i) .ok (s.setEng e ((s.eng e).setBuf x (((s.eng e).buf x).write i.toNat (s.bufOperand e))))
  /-- FEED of a buffer in flight. -/
  | feedRefused (x : Chan) (hb : s.feeder.busy = false) (ha : (s.outEng.ch x).active = true) :
      Effect s (.feed x) .errBusy s.readSide

/-- Everything a command can do: it completes with its effect, its status and its results; or it is a FEED that waits; or it is a
FEED that starts. An error's results are 0 (R201). -/
theorem exec_cases {i : Instr} {s t : State} (h : exec i s = .next t) :
    (∃ c u r r2, Effect s i c u ∧ t = u.completeOn s.cur (statusCode c) r r2 ∧ (c ≠ .ok → r = 0 ∧ r2 = 0)) ∨
    (∃ x, i = .feed x ∧ s.feeder.busy = true ∧ t = s.readSide.hold x) ∨
    (∃ x, i = .feed x ∧ s.feeder.busy = false ∧ (s.outEng.ch x).active = false ∧ t = s.readSide.startFeed x) := by
  have done : ∀ {c u r r2}, Effect s i c u → t = u.completeOn s.cur (statusCode c) r r2 → (c ≠ .ok → r = 0 ∧ r2 = 0) →
      (∃ c u r r2, Effect s i c u ∧ t = u.completeOn s.cur (statusCode c) r r2 ∧ (c ≠ .ok → r = 0 ∧ r2 = 0)) :=
    fun h1 h2 h3 => ⟨_, _, _, _, h1, h2, h3⟩
  cases i with
  | nop => cases h; exact .inl (done (.none _ .ok (.inl rfl)) rfl (by simp))
  | blkStatus => cases h; exact .inl (done (.none _ .ok (.inl rfl)) rfl (by simp))
  | blkClear m => cases h; exact .inl (done (.clear m) rfl (by simp))
  | rbCapacity => cases h; exact .inl (done (.none _ .ok (.inl rfl)) rfl (by simp))
  | rbLength => cases h; exact .inl (done (.none _ .ok (.inl rfl)) rfl (by simp))
  | rbEmpty => cases h; exact .inl (done (.none _ .ok (.inl rfl)) rfl (by simp))
  | rbWriteHead => cases h; exact .inl (done (.none _ .ok (.inl rfl)) rfl (by simp))
  | rbDistWrap => cases h; exact .inl (done (.none _ .ok (.inl rfl)) rfl (by simp))
  | rbStore j =>
    simp only [exec, execRbStore] at h
    split at h
    · cases h; exact .inl (done (.storeRefused j) rfl (fun _ => ⟨rfl, rfl⟩))
    · rename_i hj
      cases h
      exact .inl (done (.store j (Nat.lt_of_not_le hj)) rfl (by simp))
  | rbAdvanceWrite n => cases h; exact .inl (done (.advance n) rfl (by simp))
  | rbReadOne =>
    simp only [exec, execRbReadOne, finish, State.afterRingRead_cur, State.readSide_cur] at h
    cases h; exact .inl (done .read rfl (by simp))
  | dmaInit e =>
    simp only [exec, execDmaInit] at h
    split at h
    · cases h; exact .inl (done (.none _ .errState (.inr (.inl ⟨e, .inl rfl, rfl⟩))) rfl (fun _ => ⟨rfl, rfl⟩))
    · rename_i hr
      simp only [finish, State.setEng_cur] at h
      cases h; exact .inl (done (.init e (by simpa using hr)) rfl (by simp))
  | dmaStart e =>
    simp only [exec, execDmaStart] at h
    split at h
    · cases h; exact .inl (done (.none _ .errState (.inr (.inl ⟨e, .inr rfl, rfl⟩))) rfl (fun _ => ⟨rfl, rfl⟩))
    · rename_i hr
      simp only [Bool.or_eq_true, Bool.not_eq_true', not_or, Bool.not_eq_false, Bool.not_eq_true] at hr
      simp only [finish, State.setRun_cur, State.trigger_cur] at h
      cases h; exact .inl (done (.start e hr.2 hr.1) rfl (by simp))
  | dmaArm e x len =>
    simp only [exec, execDmaArm] at h
    split at h
    · cases h
      exact .inl (done (.none _ .errState (.inr (.inr (.inl ⟨e, x, len, rfl, .inl rfl⟩)))) rfl (fun _ => ⟨rfl, rfl⟩))
    split at h
    · cases h
      exact .inl (done (.none _ .errBusy (.inr (.inr (.inl ⟨e, x, len, rfl, .inr (.inl rfl)⟩)))) rfl (fun _ => ⟨rfl, rfl⟩))
    split at h
    · cases h
      exact .inl (done (.none _ .errRange (.inr (.inr (.inl ⟨e, x, len, rfl, .inr (.inr rfl)⟩)))) rfl (fun _ => ⟨rfl, rfl⟩))
    · rename_i h1 h2 _
      simp only [finish, State.setEng_cur] at h
      cases h; exact .inl (done (.arm e x len (by simpa using h1) (by simpa using h2)) rfl (by simp))
  | dmaAck e x =>
    simp only [exec, execDmaAck, finish, State.setEng_cur] at h
    cases h; exact .inl (done (.ack e x) rfl (by simp))
  | dmaStatus e => cases h; exact .inl (done (.none _ .ok (.inl rfl)) rfl (by simp))
  | bufWrite e x k =>
    simp only [exec, execBufWrite] at h
    split at h
    · cases h
      exact .inl (done (.none _ .errBusy (.inr (.inr (.inr ⟨e, x, k, .inl rfl, .inl rfl⟩)))) rfl (fun _ => ⟨rfl, rfl⟩))
    split at h
    · cases h
      exact .inl (done (.none _ .errRange (.inr (.inr (.inr ⟨e, x, k, .inl rfl, .inr rfl⟩)))) rfl (fun _ => ⟨rfl, rfl⟩))
    · rename_i h1 h2
      simp only [finish, State.setEng_cur] at h
      cases h; exact .inl (done (.bufWrite e x k (by simpa using h1) (by simpa using h2)) rfl (by simp))
  | bufRead e x k =>
    simp only [exec, execBufRead] at h
    split at h
    · cases h
      exact .inl (done (.none _ .errBusy (.inr (.inr (.inr ⟨e, x, k, .inr rfl, .inl rfl⟩)))) rfl (fun _ => ⟨rfl, rfl⟩))
    split at h
    · cases h
      exact .inl (done (.none _ .errRange (.inr (.inr (.inr ⟨e, x, k, .inr rfl, .inr rfl⟩)))) rfl (fun _ => ⟨rfl, rfl⟩))
    · cases h; exact .inl (done (.none _ .ok (.inl rfl)) rfl (by simp))
  | cvt => cases h; exact .inl (done (.none _ .ok (.inl rfl)) rfl (by simp))
  | feed x =>
    simp only [exec, execFeed] at h
    split at h
    · rename_i hb
      cases h; exact .inr (.inl ⟨x, rfl, by simpa using hb, rfl⟩)
    · rename_i hb
      split at h
      · rename_i ha
        cases h
        exact .inl (done (.feedRefused x (by simpa using hb) (by simpa using ha)) rfl (fun _ => ⟨rfl, rfl⟩))
      · rename_i ha
        cases h; exact .inr (.inr ⟨x, rfl, by simpa using hb, by simpa using ha, rfl⟩)

/-- Every command answers a next state: no command halts the block (R11). -/
theorem exec_answers (i : Instr) (s : State) : ∃ t, exec i s = .next t := by
  cases i <;>
    simp only [exec, execNop, execBlkStatus, execBlkClear, execRbCapacity, execRbLength, execRbEmpty, execRbWriteHead,
      execRbDistWrap, execRbStore, execRbAdvanceWrite, execRbReadOne, execDmaInit, execDmaStart, execDmaArm, execDmaAck,
      execDmaStatus, execBufWrite, execBufRead, execCvt, execFeed, finish, raiseStatus] <;>
    (repeat' split) <;> exact ⟨_, rfl⟩

/-- The ways a move `m` changes the state `s`. -/
inductive StepForm (s : State) (m : Move) : State → Prop where
  /-- A move whose agent has no step, or a bus write that has no effect. -/
  | passed : StepForm s m s
  /-- A command is performed. -/
  | exec (p : Nat) (data : Option Word) (w : Word) (i : Instr) {t : State} (hc : s.canIssue p = true)
      (h : exec i (s.issued p data w) = .next t) : StepForm s m t
  /-- An illegal word is refused. -/
  | illegal (p : Nat) (data : Option Word) (w : Word) (hc : s.canIssue p = true) :
      StepForm s m ((s.issued p data w).completeOn p (statusCode .errIllegal) 0 0)
  /-- An access the block does not support. -/
  | stuck (p : Nat) (hc : s.canIssue p = true) : StepForm s m (s.stick p)
  /-- A bus write to DATA. -/
  | data (p : Nat) (v : Word) (hc : s.canIssue p = true) : StepForm s m (s.setPort p { s.port p with data := v })
  /-- A bus read. -/
  | busRead (v : Word) : StepForm s m { s with busData := v }
  /-- A held FEED goes on. -/
  | resume (p : Nat) (x : Chan) {t : State} (hh : (s.port p).issuer = .holding x) (hb : s.feeder.busy = false)
      (h : exec (.feed x) (s.released p) = .next t) : StepForm s m t
  /-- A step of the feeder. -/
  | feeder (hm : m = .feeder) (hb : s.feeder.busy = true) : StepForm s m s.feederStep
  /-- An element step of a transfer agent. -/
  | element (e : Eng) (x : Chan) (hm : m = .transfer e) (hr : (s.eng e).run = true) (hx : (s.eng e).activeCh = some x) :
      StepForm s m (s.element e x)

theorem performWord_cases {m : Move} {p : Nat} {data : Option Word} {w : Word} {s t : State} (hc : s.canIssue p = true)
    (h : performWord w (s.issued p data w) = .next t) : StepForm s m t := by
  unfold performWord at h
  split at h
  · exact .exec p data w _ hc h
  · cases h; exact .illegal p data w hc

/-- Everything a step can do. -/
theorem performMove_cases {m : Move} {s t : State} (h : performMove m s = .next t) : StepForm s m t := by
  cases m with
  | command p data w =>
    simp only [performMove, commandMove] at h
    split at h
    · exact performWord_cases (by assumption) h
    · cases h; exact .passed
  | busWrite p width addr v =>
    simp only [performMove, busWriteMove] at h
    split at h
    · cases h; exact .passed
    rename_i hc
    have hc : s.canIssue p = true := by simpa using hc
    split at h
    · cases h; exact .stuck p hc
    split at h
    · cases h; exact .passed
    simp only [memWrite] at h
    split at h
    · exact performWord_cases hc h
    split at h
    · cases h; exact .data p v hc
    · cases h; exact .passed
  | busRead p width addr =>
    simp only [performMove, busReadMove] at h
    split at h
    · cases h; exact .passed
    rename_i hc
    split at h
    · cases h; exact .stuck p (by simpa using hc)
    · cases h; exact .busRead _
  | resume p =>
    simp only [performMove, resumeMove] at h
    split at h
    · rename_i x hx
      split at h
      · cases h; exact .passed
      · rename_i hb
        exact .resume p x hx (by simpa using hb) h
    · cases h; exact .passed
  | feeder =>
    simp only [performMove, feederMove] at h
    split at h
    · cases h; exact .feeder rfl (by assumption)
    · cases h; exact .passed
  | transfer e =>
    simp only [performMove, transferMove, transferStep] at h
    split at h
    · split at h
      · cases h; exact .element e _ rfl (by assumption) (by assumption)
      · cases h
    · cases h; exact .passed

/-- Everything a step can do, from the state in which its move has been taken. -/
theorem step_cases {s t : State} (h : step s = .next t) : StepForm s.moveTaken s.nextMove t := performMove_cases h

end Sys2Proof.Machine
end

