-- ==== Sys2Proof/Laws/Kept.lean ====
section
/-!
SUPPORT. What the commands, the feeder and the transfer agents leave alone, said once each, and what an element step does to the
engines.
-/
namespace Sys2Proof.Machine

open Sys2Proof

@[simp] theorem State.eng_moveTaken (s : State) (e : Eng) : s.moveTaken.eng e = s.eng e := by cases e <;> simp [State.eng]

@[simp] theorem State.eng_issued (s : State) (p d w) (e : Eng) : (s.issued p d w).eng e = s.eng e := by cases e
    <;> simp [State.eng]

@[simp] theorem State.eng_completeOn (s : State) (p c r r2) (e : Eng) : (s.completeOn p c r r2).eng e = s.eng e := by
    cases e <;> simp [State.eng]

@[simp] theorem State.eng_released (s : State) (p) (e : Eng) : (s.released p).eng e = s.eng e := by cases e <;> simp [State.eng]

/-- The fields no command changes. -/
theorem effect_kept {s u : State} {i : Instr} {c : Status} (h : Effect s i c u) :
    u.par = s.par ∧ u.ports = s.ports ∧ u.serialOut = s.serialOut ∧ u.cur = s.cur ∧ u.sampler = s.sampler ∧
         u.agenda = s.agenda ∧ u.busData = s.busData ∧ u.feeder = s.feeder := by
  cases h <;> simp

/-- The fields no command, complete or not, changes. -/
theorem exec_kept {i : Instr} {s t : State} (h : exec i s = .next t) : t.par = s.par ∧ t.serialOut = s.serialOut ∧
    t.cur = s.cur ∧ t.sampler = s.sampler ∧ t.agenda = s.agenda ∧ t.busData = s.busData := by
  rcases exec_cases h with ⟨c, u, r, r2, he, rfl, hr⟩ | ⟨x, rfl, -, rfl⟩ | ⟨x, rfl, -, -, rfl⟩
  · have := effect_kept he; simp [this]
  · simp
  · simp

/-- What a feeder step leaves alone: engine CAP, and all of engine OUT but a buffer. -/
theorem feederStep_engine (s : State) : s.feederStep.capEng = s.capEng ∧ s.feederStep.outEng.run = s.outEng.run ∧
    s.feederStep.outEng.inited = s.outEng.inited ∧ (∀ y, s.feederStep.outEng.ch y = s.outEng.ch y) := by
  unfold State.feederStep; split_ifs <;> simp [State.feedAbort, State.feedEnd, State.feedElement]

theorem feederStep_kept (s : State) : s.feederStep.par = s.par ∧ s.feederStep.serialOut = s.serialOut := by
  unfold State.feederStep; split_ifs <;> simp [State.feedAbort, State.feedEnd, State.feedElement]

theorem feederStep_faults (s : State) : s.feederStep.faults = s.faults := by
  unfold State.feederStep; split_ifs <;> simp [State.feedAbort, State.feedEnd, State.feedElement]

/-- What `advancePos` does to its engine, and that it touches no other (R150 to R153). -/
theorem advancePos_spec (s : State) (e : Eng) (x : Chan) :
   ElementCounted e x s (s.advancePos e x) ∧ (∀ y, ((s.advancePos e x).eng e).buf y = (s.eng e).buf y) ∧ (∀ f, f ≠ e →
         (s.advancePos e x).eng f = s.eng f) := by
  unfold State.advancePos ElementCounted
  dsimp only
  by_cases h : ((s.eng e).ch x).pos + 1 = s.par.bufLen
  · rw [if_pos h]
    refine ⟨⟨by simp, by simp, fun h' => absurd h h', fun _ => ⟨?_, ?_, ?_, ?_⟩⟩, ?_, ?_⟩
    · simp [Channel.completed, h]
    · simp [Triggered, Channel.triggered]
    · rw [State.complete_faults]; simp
    · rw [State.complete_faults]; simp
    · intro y; simp
    · intro f hf; rw [State.eng_complete_ne _ hf, State.eng_setEng_ne _ hf]
  · rw [if_neg h]
    refine ⟨⟨by simp, by simp, fun h' => ⟨?_, ?_, ?_⟩, fun h' => absurd h' h⟩, ?_, ?_⟩
    · simp
    · simp
    · simp
    · simp
    · intro f hf; rw [State.eng_setEng_ne _ hf]

/-- An element step is `advancePos` on a state that differs only where the sample or the frame goes. -/
theorem element_eq_advancePos (s : State) (e : Eng) (x : Chan) : ∃ u : State, s.element e x = u.advancePos e x ∧
    u.par = s.par ∧ u.faults = s.faults ∧
    (∀ y, (u.eng e).ch y = (s.eng e).ch y) ∧ (u.eng e).run = (s.eng e).run ∧ (u.eng e).inited = (s.eng e).inited ∧ (∀ f,
         f ≠ e → u.eng f = s.eng f) ∧ u.ports = s.ports
    ∧ u.cur = s.cur ∧ u.wr = s.wr ∧ u.rd = s.rd ∧ u.ring = s.ring ∧ u.feeder = s.feeder ∧ u.overrun = s.overrun := by
  cases e
  · refine ⟨(s.afterOutDraw x).emit (s.outFrame x), rfl, ?_⟩
    refine ⟨by simp, by simp, by simp [State.eng], by simp [State.eng], by simp [State.eng], ?_, by simp, by simp, by simp,
          by simp, by simp, by simp, by simp⟩
    intro f hf; cases f <;> simp [State.eng] at *
  · refine ⟨{ s.afterSample with capEng := s.afterSample.capEng.setBuf x (s.captured x) }, rfl, ?_⟩
    refine ⟨by simp, by simp, by simp [State.eng], by simp [State.eng], by simp [State.eng], ?_, by simp, by simp, by simp,
          by simp, by simp, by simp, by simp⟩
    intro f hf; cases f <;> simp [State.eng] at *

/-- What an element step does to the engines (R150 to R153). -/
theorem element_spec (s : State) (e : Eng) (x : Chan) : ElementCounted e x s (s.element e x) ∧ ∀ f, f ≠ e →
    (s.element e x).eng f = s.eng f := by
  obtain ⟨u, h1, h2, h3, h4, h5, h6, h7, -⟩ := element_eq_advancePos s e x
  have hc := advancePos_spec u e x
  rw [← h1] at hc
  refine ⟨?_, fun f hf => (hc.2.2 f hf).trans (h7 f hf)⟩
  have := hc.1
  unfold ElementCounted Triggered at this ⊢
  simp only [h2, h3, h4, h5, h6] at this
  exact this

theorem State.canIssue_lt {s : State} {p : Nat} (h : s.canIssue p = true) : p < s.ports.length := by
  simp [State.canIssue] at h; exact h.1.1

end Sys2Proof.Machine
end

