-- ==== Sys2Proof/Laws/Memory.lean ====
section
/-!
SUPPORT. The laws of an element space: read after write, what a write leaves alone, and the canonical form every write keeps.
-/
namespace Sys2Proof.Machine

open Sys2Proof

@[simp] theorem Memory.read_nil (i : Nat) : Memory.read [] i = 0 := rfl

theorem Memory.read_cons (c : Nat × Word) (m : Memory) (i : Nat) :
    Memory.read (c :: m) i = if c.1 = i then c.2 else Memory.read m i := rfl

theorem Memory.read_eq_zero {m : Memory} {i : Nat} (h : ∀ c ∈ m, c.1 ≠ i) : m.read i = 0 := by
  induction m with
  | nil => rfl
  | cons c m ih =>
    rw [Memory.read_cons, if_neg (h c (by simp))]
    exact ih fun d hd => h d (by simp [hd])

theorem Memory.wf_iff (m : Memory) :
    m.wf = true ↔ m.Pairwise (fun c d => c.1 < d.1) ∧ ∀ c ∈ m, c.2 ≠ 0 := by
  simp [Memory.wf, List.all_eq_true]

theorem Memory.fits_iff (size width : Nat) (m : Memory) :
    m.fits size width = true ↔ ∀ c ∈ m, c.1 < size ∧ c.2.toNat < 2 ^ width := by
  simp [Memory.fits, List.all_eq_true]

theorem Memory.wf_nil : Memory.wf [] = true := rfl

theorem Memory.fits_nil (size width : Nat) : Memory.fits size width [] = true := rfl

/-- A write leaves every other element alone. -/
theorem Memory.read_write_ne {m : Memory} {i k : Nat} {v : Word} (h : k ≠ i) : (m.write i v).read k = m.read k := by
  induction m with
  | nil => unfold Memory.write; split <;> simp [Memory.read_cons, Ne.symm h]
  | cons c m ih =>
    unfold Memory.write
    split
    · split <;> simp [Memory.read_cons, Ne.symm h]
    · split
      · rename_i hc
        split <;> simp [Memory.read_cons, hc, Ne.symm h]
      · simp [Memory.read_cons, ih]

/-- In canonical form, a read after a write to the same element gives the value written. -/
theorem Memory.read_write_self {m : Memory} (hm : m.wf = true) (i : Nat) (v : Word) : (m.write i v).read i = v := by
  obtain ⟨hp, -⟩ := (Memory.wf_iff m).mp hm
  clear hm
  induction m with
  | nil => unfold Memory.write; split <;> simp_all [Memory.read_cons]
  | cons c m ih =>
    have hlt := (List.pairwise_cons.mp hp).1
    unfold Memory.write
    split
    · rename_i hi
      split
      · rename_i hv
        rw [hv]
        refine Memory.read_eq_zero fun d hd => ?_
        rcases List.mem_cons.mp hd with rfl | hd
        · omega
        · have := hlt d hd; omega
      · simp [Memory.read_cons]
    · split
      · rename_i hc
        split
        · rename_i hv
          rw [hv]
          refine Memory.read_eq_zero fun d hd => ?_
          have := hlt d hd; omega
        · simp [Memory.read_cons]
      · rename_i hc
        simp [Memory.read_cons, hc, ih (List.pairwise_cons.mp hp).2]

theorem Memory.read_write {m : Memory} (hm : m.wf = true) (i k : Nat) (v : Word) :
    (m.write i v).read k = if k = i then v else m.read k := by
  split
  · subst k; exact Memory.read_write_self hm i v
  · exact Memory.read_write_ne (by assumption)

/-- An element listed after a write is the one written or was listed before. -/
theorem Memory.mem_write {m : Memory} {i : Nat} {v : Word} {d : Nat × Word} (h : d ∈ m.write i v) :
    (d = (i, v) ∧ v ≠ 0) ∨ d ∈ m := by
  induction m with
  | nil => unfold Memory.write at h; split at h <;> simp_all
  | cons c m ih =>
    unfold Memory.write at h
    split at h
    · split at h
      · exact .inr h
      · rcases List.mem_cons.mp h with h | h
        · exact .inl ⟨h, by assumption⟩
        · exact .inr h
    · split at h
      · split at h
        · exact .inr (List.mem_cons_of_mem _ h)
        · rcases List.mem_cons.mp h with h | h
          · exact .inl ⟨h, by assumption⟩
          · exact .inr (List.mem_cons_of_mem _ h)
      · rcases List.mem_cons.mp h with h | h
        · exact .inr (h ▸ List.mem_cons_self)
        · rcases ih h with h | h
          · exact .inl h
          · exact .inr (List.mem_cons_of_mem _ h)

/-- Every write keeps the canonical form. -/
theorem Memory.write_wf {m : Memory} (hm : m.wf = true) (i : Nat) (v : Word) : (m.write i v).wf = true := by
  rw [Memory.wf_iff] at hm ⊢
  refine ⟨?_, fun d hd => ?_⟩
  · obtain ⟨hp, -⟩ := hm
    induction m with
    | nil => unfold Memory.write; split <;> simp
    | cons c m ih =>
      have hlt := (List.pairwise_cons.mp hp).1
      have htl := (List.pairwise_cons.mp hp).2
      unfold Memory.write
      split
      · rename_i hi
        split
        · exact hp
        · refine List.pairwise_cons.mpr ⟨fun d hd => ?_, hp⟩
          rcases List.mem_cons.mp hd with rfl | hd
          · exact hi
          · exact lt_trans hi (hlt d hd)
      · rename_i hi
        split
        · rename_i hc
          split
          · exact htl
          · exact List.pairwise_cons.mpr ⟨fun d hd => hc ▸ hlt d hd, htl⟩
        · rename_i hc
          refine List.pairwise_cons.mpr ⟨fun d hd => ?_, ih htl⟩
          rcases Memory.mem_write hd with ⟨rfl, -⟩ | hd
          · show c.1 < i
            omega
          · exact hlt d hd
  · rcases Memory.mem_write hd with ⟨rfl, hv⟩ | hd
    · exact hv
    · exact hm.2 d hd

/-- A write of an element of the space's size and width keeps the space's bounds. -/
theorem Memory.write_fits {m : Memory} {size width i : Nat} {v : Word} (hm : m.fits size width = true) (hi : i < size)
    (hv : v.toNat < 2 ^ width) : (m.write i v).fits size width = true := by
  rw [Memory.fits_iff] at hm ⊢
  intro d hd
  rcases Memory.mem_write hd with ⟨rfl, -⟩ | hd
  · exact ⟨hi, hv⟩
  · exact hm d hd

/-- An element read from a space is of the space's width. -/
theorem Memory.read_lt {m : Memory} {size width : Nat} (hm : m.fits size width = true) (i : Nat) :
    (m.read i).toNat < 2 ^ width := by
  rw [Memory.fits_iff] at hm
  induction m with
  | nil => simp
  | cons c m ih =>
    rw [Memory.read_cons]
    split
    · exact (hm c (by simp)).2
    · exact ih fun d hd => hm d (by simp [hd])

/-- In a canonical space of frames, frame `k` after frame `i` is written. -/
theorem readFrame_writeFrame {m : Memory} (hm : m.wf = true) (i k : Nat) (f : Frame) :
    readFrame (writeFrame m i f) k = if k = i then f else readFrame m k := by
  unfold readFrame writeFrame
  rw [Memory.read_write (Memory.write_wf hm _ _), Memory.read_write (Memory.write_wf hm _ _), Memory.read_write hm,
    Memory.read_write hm]
  by_cases h : k = i
  · subst h; simp
  · have h1 : 2 * k ≠ 2 * i := by omega
    have h2 : 2 * k ≠ 2 * i + 1 := by omega
    have h3 : 2 * k + 1 ≠ 2 * i := by omega
    have h4 : 2 * k + 1 ≠ 2 * i + 1 := by omega
    simp [h, h2, h3]

/-- A frame written keeps the canonical form. -/
theorem writeFrame_wf {m : Memory} (hm : m.wf = true) (i : Nat) (f : Frame) : (writeFrame m i f).wf = true :=
  Memory.write_wf (Memory.write_wf hm _ _) _ _

/-- A frame written inside an output buffer keeps its bounds. -/
theorem writeFrame_fits {m : Memory} {S i : Nat} (hm : m.fits (2 * S) 32 = true) (hi : i < S) (f : Frame) :
    (writeFrame m i f).fits (2 * S) 32 = true :=
  Memory.write_fits (Memory.write_fits hm (by omega) f.left.isLt) (by omega) f.right.isLt

end Sys2Proof.Machine
end

