-- ==== Sys2Proof/Laws/Invariant.lean ====
section
/-!
SUPPORT. The engine invariant and the block's invariant, kept by each named operation.
-/
namespace Sys2Proof.Machine

open Sys2Proof

theorem Params.legal_iff (p : Params) : p.legal = true ↔ (2 ≤ p.capacity ∧ p.capacity ≤ 65535 ∧ 1 ≤ p.wIn ∧ p.wIn ≤ 32 ∧
    1 ≤ p.bufLen ∧ p.bufLen ≤ 32767 ∧ 1 ≤ p.nports ∧ p.nports ≤ 16) := by
  simp [Params.legal, and_assoc]

theorem Engine.reset_inv (S : Nat) : Engine.reset.Inv S := by
  refine ⟨?_, ?_, ?_, ?_, ?_, ?_⟩ <;> simp [Engine.reset, Channel.reset, Channel.Inv]

theorem Engine.Inv.initialised {S : Nat} {g : Engine} (h : g.run = false) : g.initialised.Inv S := by
  refine ⟨?_, ?_, ?_, ?_, ?_, ?_⟩ <;> simp [Engine.initialised, Channel.configured, Channel.Inv, h]

theorem Engine.Inv.started {S : Nat} {g : Engine} (hS : 1 ≤ S) (hi : g.Inv S) (h : g.run = false) (h2 : g.inited = true) :
   Engine.Inv S { g.setCh .a (g.ch .a).triggered with run := true } := by
  have := hi.idle h
  have hB := hi.chB
  refine ⟨?_, ?_, ?_, ?_, ?_, ?_⟩ <;> simp [Engine.setCh, Channel.triggered, Engine.ch, Channel.Inv, h2, this]
        <;> first | omega | exact hB.1

theorem Engine.Inv.setCh {S : Nat} {g : Engine} (hi : g.Inv S) (x : Chan) (c : Channel) (h1 : c.active = (g.ch x).active)
    (h2 : c.pos = (g.ch x).pos)
    (h3 : c.armed = (g.ch x).armed ∨ (c.armed = true ∧ g.inited = true ∧ c.active = false)) : (g.setCh x c).Inv S := by
  obtain ⟨a, b, r, i, rd, d⟩ := hi
  cases x
  · refine ⟨?_, b, ?_, ?_, ?_, ?_⟩
    · unfold Channel.Inv at *; simp only [Engine.setCh, Engine.ch] at *
      rw [h1, h2]; rcases h3 with h3 | h3
      · rw [h3]; exact a
      · refine ⟨a.1, fun hh => ?_⟩; rw [h1, hh] at h3; simp at h3
    · simp only [Engine.setCh, Engine.ch] at *; rw [h1]; exact r
    · simp only [Engine.setCh, Engine.ch] at *; rw [h1]; exact i
    · simp only [Engine.setCh, Engine.ch] at *; intro p q; have := rd p q; rcases h3 with h3 | h3
      · rw [h3]; exact this
      · exact ⟨h3.1, this.2⟩
    · simp only [Engine.setCh, Engine.ch] at *; intro p; have := d p; rcases h3 with h3 | h3
      · rw [h3]; exact this
      · rw [p] at h3; simp at h3
  · refine ⟨a, ?_, ?_, ?_, ?_, ?_⟩
    · unfold Channel.Inv at *; simp only [Engine.setCh, Engine.ch] at *
      rw [h1, h2]; rcases h3 with h3 | h3
      · rw [h3]; exact b
      · refine ⟨b.1, fun hh => ?_⟩; rw [h1, hh] at h3; simp at h3
    · simp only [Engine.setCh, Engine.ch] at *; rw [h1]; exact r
    · simp only [Engine.setCh, Engine.ch] at *; rw [h1]; exact i
    · simp only [Engine.setCh, Engine.ch] at *; intro p q; have := rd p q; rcases h3 with h3 | h3
      · rw [h3]; exact this
      · exact ⟨this.1, h3.1⟩
    · simp only [Engine.setCh, Engine.ch] at *; intro p; have := d p; rcases h3 with h3 | h3
      · rw [h3]; exact this
      · rw [p] at h3; simp at h3

theorem Engine.Inv.setBuf {S : Nat} {g : Engine} (hi : g.Inv S) (x : Chan) (m : Memory) : (g.setBuf x m).Inv S := by
  obtain ⟨a, b, r, i, rd, d⟩ := hi
  cases x <;> exact ⟨a, b, r, i, rd, d⟩

theorem Engine.Inv.of_same {S : Nat} {g k : Engine} (hi : g.Inv S) (h1 : k.run = g.run) (h2 : k.inited = g.inited) (h3 : ∀ y,
    k.ch y = g.ch y) : k.Inv S := by
  obtain ⟨a, b, r, i, rd, d⟩ := hi
  have hA : k.chA = g.chA := h3 .a
  have hB : k.chB = g.chB := h3 .b
  exact ⟨by rwa [hA], by rwa [hB], by rwa [hA, hB, h1, h2], by rwa [hA, hB, h1], by rwa [hA, hB, h1, h2], by rwa [hA, hB, h2]⟩

theorem Engine.Inv.element {s : State} {e : Eng} {x : Chan} (hS : 1 ≤ s.par.bufLen) (hi : (s.eng e).Inv s.par.bufLen) (hr :
    (s.eng e).run = true) (hx : (s.eng e).activeCh = some x) :
    ((s.element e x).eng e).Inv s.par.bufLen := by
  have he := (element_spec s e x).1
  have ax := Engine.activeCh_eq_some.mp hx
  have hin := (hi.running hr).1
  have ho := hi.of_active ax.1
  obtain ⟨e1, e2, e3, e4⟩ := he
  generalize s.element e x = t at *
  by_cases hl : ((s.eng e).ch x).pos + 1 = s.par.bufLen
  · obtain ⟨h3, h4, -⟩ := e4 hl
    unfold Triggered at h4
    cases x <;> simp only [Engine.ch, other] at h3 h4
    · refine ⟨by rw [h3]; simp [Channel.Inv], by rw [h4]; simp [Channel.Inv]; omega, ?_, ?_, ?_, ?_⟩ <;> rw [h3, h4]
          <;> simp [e1, e2, hr, hin]
    · refine ⟨by rw [h4]; simp [Channel.Inv]; omega, by rw [h3]; simp [Channel.Inv], ?_, ?_, ?_, ?_⟩ <;> rw [h3, h4]
          <;> simp [e1, e2, hr, hin]
  · obtain ⟨h3, h4, -⟩ := e3 hl
    have cA := hi.chA; have cB := hi.chB
    cases x <;> simp only [Engine.ch, other] at h3 h4 ax ho hl
    · refine ⟨by rw [h3]; simp [Channel.Inv, ax, ho]; omega, by rw [h4]; exact cB, ?_, ?_, ?_, ?_⟩ <;> rw [h3, h4]
          <;> simp [e1, e2, hr, hin, ax]
    · refine ⟨by rw [h4]; exact cA, by rw [h3]; simp [Channel.Inv, ax, ho]; omega, ?_, ?_, ?_, ?_⟩ <;> rw [h3, h4]
          <;> simp [e1, e2, hr, hin, ax]

theorem State.Inv.eng {s : State} (h : s.Inv) (e : Eng) : (s.eng e).Inv s.par.bufLen := by
    cases e; exact h.outEng; exact h.capEng

theorem State.Inv.bufFits {s : State} (h : s.Inv) (e : Eng) (x : Chan) :
    ((s.eng e).buf x).fits (bufSize s.par e) (match e with | .out => 32 | .cap => s.par.wIn) = true := by
  cases e; exact h.mem.outFits x; exact h.mem.capFits x

theorem State.Inv.setEng {s : State} (h : s.Inv) (e : Eng) (g : Engine) (hg : g.Inv s.par.bufLen) (hwf : ∀ x,
    (g.buf x).wf = true)
    (hf : ∀ x, (g.buf x).fits (bufSize s.par e) (match e with | .out => 32 | .cap => s.par.wIn) = true) :
          (s.setEng e g).Inv := by
  obtain ⟨h1, h2, h3, h4, h5, h6, h7, h8, ⟨m1, m2, m3, m4, m5⟩, ⟨f1, f2, f3⟩, h11⟩ := h
  cases e
  · refine ⟨h1, h2, h3, h4, h5, h6, hg, h8, ⟨m1, m2, ?_, hf, m5⟩, ⟨f1, f2, f3⟩, h11⟩
    intro e x; cases e; exact hwf x; exact m3 .cap x
  · refine ⟨h1, h2, h3, h4, h5, h6, h7, hg, ⟨m1, m2, ?_, m4, hf⟩, ⟨f1, f2, f3⟩, h11⟩
    intro e x; cases e; exact m3 .out x; exact hwf x

theorem State.Inv.setPort {s : State} (h : s.Inv) (p : Nat) (q : Port) (hq : q.stat.toNat ≤ 4) : (s.setPort p q).Inv := by
  obtain ⟨h1, h2, h3, h4, h5, h6, h7, h8, ⟨m1, m2, m3, m4, m5⟩, ⟨f1, f2, f3⟩, h11⟩ := h
  refine ⟨h1, by simpa using h2, h3, ?_, h5, h6, h7, h8, ⟨m1, m2, ?_, m4, m5⟩, ⟨f1, f2, f3⟩, h11⟩
  · intro r hr; rcases State.mem_setPort hr with rfl | hr
    · exact hq
    · exact h4 r hr
  · intro e x; cases e; exact m3 .out x; exact m3 .cap x

theorem State.Inv.port_stat {s : State} (h : s.Inv) (p : Nat) : (s.port p).stat.toNat ≤ 4 := by
  simp only [State.port, List.getD]
  cases hq : s.ports[p]? with
  | none => decide
  | some q => exact h.codes q (List.mem_of_getElem? hq)

theorem statusCode_le (c : Status) : (statusCode c).toNat ≤ 4 := by cases c <;> decide

theorem State.Inv.completeOn {s : State} (h : s.Inv) (p : Nat) (c : Status) (r r2 : Word) :
    (s.completeOn p (statusCode c) r r2).Inv :=
  State.Inv.setPort h p _ (statusCode_le c)

theorem State.Inv.withFaults {s : State} (h : s.Inv) (f : ModelFaults) : ({ s with faults := f } : State).Inv := by
  obtain ⟨h1, h2, h3, h4, h5, h6, h7, h8, ⟨m1, m2, m3, m4, m5⟩, ⟨f1, f2, f3⟩, h11⟩ := h
  refine ⟨h1, h2, h3, h4, h5, h6, h7, h8, ⟨m1, m2, ?_, m4, m5⟩, ⟨f1, f2, f3⟩, h11⟩
  intro e x; cases e; exact m3 .out x; exact m3 .cap x

theorem State.Inv.withRing {s : State} (h : s.Inv) (m : Memory) (hw : m.wf = true) (hf :
    m.fits s.par.capacity s.par.wIn = true) : ({ s with ring := m } : State).Inv := by
  obtain ⟨h1, h2, h3, h4, h5, h6, h7, h8, ⟨m1, m2, m3, m4, m5⟩, ⟨f1, f2, f3⟩, h11⟩ := h
  refine ⟨h1, h2, h3, h4, h5, h6, h7, h8, ⟨hw, hf, ?_, m4, m5⟩, ⟨f1, f2, f3⟩, h11⟩
  intro e x; cases e; exact m3 .out x; exact m3 .cap x

theorem State.Inv.withCursors {s : State} (h : s.Inv) (w r n : Nat) (hw : w < s.par.capacity) (hr : r < s.par.capacity) :
    ({ s with wr := w, rd := r, fresh := n } : State).Inv := by
  obtain ⟨h1, h2, h3, h4, h5, h6, h7, h8, ⟨m1, m2, m3, m4, m5⟩, ⟨f1, f2, f3⟩, h11⟩ := h
  refine ⟨h1, h2, h3, h4, hw, hr, h7, h8, ⟨m1, m2, ?_, m4, m5⟩, ⟨f1, f2, f3⟩, h11⟩
  intro e x; cases e; exact m3 .out x; exact m3 .cap x

theorem State.Inv.withStreams {s : State} (h : s.Inv) (st ov : Bool) (hov : s.par.overrunDetect = false → ov = false) (so :
    List Frame) (sm : List Word) (b : Word) (n : Nat) :
    ({ s with starved := st, overrun := ov, serialOut := so, sampler := sm, busData := b, fresh := n } : State).Inv := by
  obtain ⟨h1, h2, h3, h4, h5, h6, h7, h8, ⟨m1, m2, m3, m4, m5⟩, ⟨f1, f2, f3⟩, h11⟩ := h
  refine ⟨h1, h2, h3, h4, h5, h6, h7, h8, ⟨m1, m2, ?_, m4, m5⟩, ⟨f1, f2, f3⟩, hov⟩
  intro e x; cases e; exact m3 .out x; exact m3 .cap x

theorem State.Inv.withFeeder {s : State} (h : s.Inv) (f : Feeder) (a : f.busy = true → f.port < s.par.nports) (b :
    f.n ≤ s.par.bufLen) (c : f.busy = true → f.i < s.par.bufLen) :
    ({ s with feeder := f } : State).Inv := by
  obtain ⟨h1, h2, h3, h4, h5, h6, h7, h8, ⟨m1, m2, m3, m4, m5⟩, ⟨f1, f2, f3⟩, h11⟩ := h
  refine ⟨h1, h2, h3, h4, h5, h6, h7, h8, ⟨m1, m2, ?_, m4, m5⟩, ⟨a, b, c⟩, h11⟩
  intro e x; cases e; exact m3 .out x; exact m3 .cap x

theorem State.Inv.withCur {s : State} (h : s.Inv) (p : Nat) (hp : p < s.par.nports) : ({ s with cur := p } : State).Inv := by
  obtain ⟨h1, h2, h3, h4, h5, h6, h7, h8, ⟨m1, m2, m3, m4, m5⟩, ⟨f1, f2, f3⟩, h11⟩ := h
  refine ⟨h1, h2, hp, h4, h5, h6, h7, h8, ⟨m1, m2, ?_, m4, m5⟩, ⟨f1, f2, f3⟩, h11⟩
  intro e x; cases e; exact m3 .out x; exact m3 .cap x

theorem State.Inv.capacity_pos {s : State} (h : s.Inv) : 0 < s.par.capacity := by have := h.wr; omega

theorem State.Inv.afterRingRead {s : State} (h : s.Inv) : s.afterRingRead.Inv := by
  have : s.afterRingRead = { s with rd := (s.rd + 1) % s.par.capacity, wr := s.wr, fresh := s.afterRingRead.fresh } := by
    rw [State.mk.injEq]; simp
  rw [this]
  exact State.Inv.withCursors h _ _ _ h.wr (Nat.mod_lt _ (State.Inv.capacity_pos h))

theorem State.Inv.setBuf {s : State} (h : s.Inv) (e : Eng) (x : Chan) (m : Memory) (hw : m.wf = true)
    (hf : m.fits (bufSize s.par e) (match e with | .out => 32 | .cap => s.par.wIn) = true) :
         (s.setEng e ((s.eng e).setBuf x m)).Inv := by
  refine State.Inv.setEng h e _ (Engine.Inv.setBuf (State.Inv.eng h e) x m) (fun y => ?_) (fun y => ?_)
  · rcases eq_or_eq_other x y with rfl | rfl
    · rwa [Engine.buf_setBuf_self]
    · rw [Engine.buf_setBuf_other]; exact h.mem.bufWf e _
  · rcases eq_or_eq_other x y with rfl | rfl
    · rwa [Engine.buf_setBuf_self]
    · rw [Engine.buf_setBuf_other]; exact State.Inv.bufFits h e _

theorem State.Inv.moveTaken {s : State} (h : s.Inv) : s.moveTaken.Inv := by
  obtain ⟨h1, h2, h3, h4, h5, h6, h7, h8, ⟨m1, m2, m3, m4, m5⟩, ⟨f1, f2, f3⟩, h11⟩ := h
  refine ⟨by simpa, by simpa, by simpa, by simpa, by simpa, by simpa, by simpa, by simpa, ⟨by simpa, by simpa, ?_, by simpa,
        by simpa⟩, ⟨by simpa, by simpa, by simpa⟩, by simpa⟩
  intro e x; rw [State.eng_moveTaken]; exact m3 e x

end Sys2Proof.Machine
end

