-- ==== Sys2Proof/Laws/PerInstr.lean ====
section
/-!
SUPPORT. Per instruction: its command word is covered by a row of the opcode map, which builds the instruction back.
-/
namespace Sys2Proof

/-- A row of the opcode map covers the command word of a well-formed instruction, and builds the instruction from it. -/
def Laws.MatchesRow.Statement (i : Instr) : Prop :=
  i.wellFormed = true → ∃ r ∈ opcodeTable, r.covers (encode i) = true ∧ r.build (encode i) = i

/-- A mask of BLK_CLEAR that has an encoding has no bit from 2 on. -/
theorem blkClear_high_bits {m : BitVec 16} (h : (Instr.blkClear m).wellFormed = true) (k : Nat) (hk : 2 ≤ k)
    (hk' : k < 16) : m[k] = false := by
  rw [← BitVec.getLsbD_eq_getElem]
  have hm : m.toNat < 4 := by simpa [Instr.wellFormed] using h
  exact Nat.testBit_lt_two_pow (lt_of_lt_of_le hm (Nat.pow_le_pow_right (n := 2) (by decide) hk))

theorem Laws.MatchesRow.nop : Laws.MatchesRow.Statement .nop := by
  exact fun _ => ⟨_, List.getElem_mem (n := 0) (by decide), by decide, rfl⟩

theorem Laws.MatchesRow.blkStatus : Laws.MatchesRow.Statement .blkStatus := by
  exact fun _ => ⟨_, List.getElem_mem (n := 1) (by decide), by decide, rfl⟩

theorem Laws.MatchesRow.blkClear (m : BitVec 16) : Laws.MatchesRow.Statement (.blkClear m) := by
  refine fun h => ⟨_, List.getElem_mem (n := 2) (by decide), (Row.covers_iff _ _).mpr fun k hk => ?_, ?_⟩
  · simp only [encode, getLsbD_encodeFields]
    interval_cases k <;> simp [opcodeTable, blockRows, engineRows, blkClear_high_bits h, chBit, engBit]
  · simp [opcodeTable, blockRows, engineRows, encode]

theorem Laws.MatchesRow.rbCapacity : Laws.MatchesRow.Statement .rbCapacity := by
  exact fun _ => ⟨_, List.getElem_mem (n := 3) (by decide), by decide, rfl⟩

theorem Laws.MatchesRow.rbLength : Laws.MatchesRow.Statement .rbLength := by
  exact fun _ => ⟨_, List.getElem_mem (n := 4) (by decide), by decide, rfl⟩

theorem Laws.MatchesRow.rbEmpty : Laws.MatchesRow.Statement .rbEmpty := by
  exact fun _ => ⟨_, List.getElem_mem (n := 5) (by decide), by decide, rfl⟩

theorem Laws.MatchesRow.rbWriteHead : Laws.MatchesRow.Statement .rbWriteHead := by
  exact fun _ => ⟨_, List.getElem_mem (n := 6) (by decide), by decide, rfl⟩

theorem Laws.MatchesRow.rbDistWrap : Laws.MatchesRow.Statement .rbDistWrap := by
  exact fun _ => ⟨_, List.getElem_mem (n := 7) (by decide), by decide, rfl⟩

theorem Laws.MatchesRow.rbStore (j : BitVec 16) : Laws.MatchesRow.Statement (.rbStore j) := by
  refine fun _ => ⟨_, List.getElem_mem (n := 8) (by decide), (Row.covers_iff _ _).mpr fun k hk => ?_, ?_⟩
  · simp only [encode, getLsbD_encodeFields]
    interval_cases k <;> simp [opcodeTable, blockRows, engineRows, chBit, engBit]
  · simp [opcodeTable, blockRows, engineRows, encode]

theorem Laws.MatchesRow.rbAdvanceWrite (n : BitVec 16) : Laws.MatchesRow.Statement (.rbAdvanceWrite n) := by
  refine fun _ => ⟨_, List.getElem_mem (n := 9) (by decide), (Row.covers_iff _ _).mpr fun k hk => ?_, ?_⟩
  · simp only [encode, getLsbD_encodeFields]
    interval_cases k <;> simp [opcodeTable, blockRows, engineRows, chBit, engBit]
  · simp [opcodeTable, blockRows, engineRows, encode]

theorem Laws.MatchesRow.rbReadOne : Laws.MatchesRow.Statement .rbReadOne := by
  exact fun _ => ⟨_, List.getElem_mem (n := 10) (by decide), by decide, rfl⟩

theorem Laws.MatchesRow.dmaInit (e : Eng) : Laws.MatchesRow.Statement (.dmaInit e) := by
  cases e <;> exact fun _ => ⟨_, List.getElem_mem (n := 11) (by decide), by decide, rfl⟩

theorem Laws.MatchesRow.dmaStart (e : Eng) : Laws.MatchesRow.Statement (.dmaStart e) := by
  cases e <;> exact fun _ => ⟨_, List.getElem_mem (n := 12) (by decide), by decide, rfl⟩

theorem Laws.MatchesRow.dmaArm (e : Eng) (x : Chan) (len : BitVec 16) : Laws.MatchesRow.Statement (.dmaArm e x len) := by
  refine fun _ => ⟨_, List.getElem_mem (n := 13) (by decide), (Row.covers_iff _ _).mpr fun k hk => ?_, ?_⟩
  · simp only [encode, getLsbD_encodeFields]
    cases e <;> cases x <;> interval_cases k <;> simp [opcodeTable, blockRows, engineRows, chBit, engBit]
  · simp [opcodeTable, blockRows, engineRows, encode]

theorem Laws.MatchesRow.dmaAck (e : Eng) (x : Chan) : Laws.MatchesRow.Statement (.dmaAck e x) := by
  cases e <;> cases x <;> exact fun _ => ⟨_, List.getElem_mem (n := 14) (by decide), by decide, rfl⟩

theorem Laws.MatchesRow.dmaStatus (e : Eng) : Laws.MatchesRow.Statement (.dmaStatus e) := by
  cases e <;> exact fun _ => ⟨_, List.getElem_mem (n := 15) (by decide), by decide, rfl⟩

theorem Laws.MatchesRow.bufWrite (e : Eng) (x : Chan) (i : BitVec 16) : Laws.MatchesRow.Statement (.bufWrite e x i) := by
  refine fun _ => ⟨_, List.getElem_mem (n := 16) (by decide), (Row.covers_iff _ _).mpr fun k hk => ?_, ?_⟩
  · simp only [encode, getLsbD_encodeFields]
    cases e <;> cases x <;> interval_cases k <;> simp [opcodeTable, blockRows, engineRows, chBit, engBit]
  · simp [opcodeTable, blockRows, engineRows, encode]

theorem Laws.MatchesRow.bufRead (e : Eng) (x : Chan) (i : BitVec 16) : Laws.MatchesRow.Statement (.bufRead e x i) := by
  refine fun _ => ⟨_, List.getElem_mem (n := 17) (by decide), (Row.covers_iff _ _).mpr fun k hk => ?_, ?_⟩
  · simp only [encode, getLsbD_encodeFields]
    cases e <;> cases x <;> interval_cases k <;> simp [opcodeTable, blockRows, engineRows, chBit, engBit]
  · simp [opcodeTable, blockRows, engineRows, encode]

theorem Laws.MatchesRow.cvt : Laws.MatchesRow.Statement .cvt := by
  exact fun _ => ⟨_, List.getElem_mem (n := 18) (by decide), by decide, rfl⟩

theorem Laws.MatchesRow.feed (x : Chan) : Laws.MatchesRow.Statement (.feed x) := by
  cases x <;> exact fun _ => ⟨_, List.getElem_mem (n := 19) (by decide), by decide, rfl⟩

end Sys2Proof
end

