-- ==== Sys2Proof/Laws/Ring.lean ====
section
/-!
SUPPORT. The laws of the ring: the length, and the positions of the unread samples.
-/
namespace Sys2Proof.Machine

open Sys2Proof

/-- The length, ahead and lapped (R34, R102). -/
theorem State.ringLength_eq {s : State} (hw : s.wr < s.par.capacity) (hr : s.rd < s.par.capacity) :
    s.ringLength = if s.rd ≤ s.wr then s.wr - s.rd else s.par.capacity - (s.rd - s.wr) := by
  unfold State.ringLength
  split
  · rw [Int.emod_eq_of_lt (by omega) (by omega)]; omega
  · have : ((s.wr : Int) - s.rd) % s.par.capacity = (s.wr : Int) - s.rd + s.par.capacity := by
      rw [← Int.add_emod_right, Int.emod_eq_of_lt (by omega) (by omega)]
    rw [this]; omega

/-- At most `C - 1` samples are unread (R34). -/
theorem State.ringLength_lt {s : State} (hw : s.wr < s.par.capacity) (hr : s.rd < s.par.capacity) :
    s.ringLength < s.par.capacity := by
  rw [State.ringLength_eq hw hr]; split <;> omega

/-- The ring is empty exactly when its length is 0 (R34). -/
theorem State.ringLength_eq_zero {s : State} (hw : s.wr < s.par.capacity) (hr : s.rd < s.par.capacity) :
    s.ringLength = 0 ↔ s.rd = s.wr := by
  rw [State.ringLength_eq hw hr]; split <;> omega

/-- An index one lap away, brought back by the modulus. -/
theorem mod_of_lt_two_mul {a n : Nat} (h : a < 2 * n) : a % n = if a < n then a else a - n := by
  split
  · exact Nat.mod_eq_of_lt (by assumption)
  · rw [Nat.mod_eq_sub_mod (by omega), Nat.mod_eq_of_lt (by omega)]

end Sys2Proof.Machine
end

