-- ==== Sys2Proof/Laws/Runs.lean ====
section
/-!
SUPPORT. Enabled moves, runs and weak fairness (70_reset_and_hazards R245), and the clean launch (R246): what a move that is not
enabled does, what one step of a run is, and that under fairness each kind of agent takes the step it keeps having.
-/
namespace Sys2Proof.Machine

open Sys2Proof

theorem Port.isHolding_iff {q : Port} : q.isHolding = true ↔ ∃ x, q.issuer = .holding x := by
  unfold Port.isHolding
  cases q.issuer <;> simp

/-- A placed move is the next step's. -/
@[simp] theorem step_placed (s : State) (m : Move) : step (s.placed m) = performMove m s := rfl

/-- A move that is not enabled is passed over, or is an access the block does not support, which leaves its context stuck (R62). -/
theorem performMove_not_enabled {s : State} {m : Move} (h : s.enables m = false) :
    performMove m s = .next s ∨ ∃ p, agentOf m = .context p ∧ s.canIssue p = true ∧ performMove m s = .next (s.stick p) := by
  cases m with
  | command p data w => exact .inl (by simp [performMove, commandMove, show s.canIssue p = false from h])
  | busWrite p width addr v =>
    cases hc : s.canIssue p
    · exact .inl (by simp [performMove, busWriteMove, hc])
    cases ha : busAccepts s.par width addr
    · exact .inr ⟨p, rfl, hc, by simp [performMove, busWriteMove, hc, ha]⟩
    · have hp : busPort s.par addr ≠ p := by simpa [State.enables, hc, ha] using h
      exact .inl (by simp [performMove, busWriteMove, hc, ha, hp])
  | busRead p width addr =>
    cases hc : s.canIssue p
    · exact .inl (by simp [performMove, busReadMove, hc])
    have ha : busAccepts s.par width addr = false := by simpa [State.enables, hc] using h
    exact .inr ⟨p, rfl, hc, by simp [performMove, busReadMove, hc, ha]⟩
  | resume p =>
    refine .inl ?_
    simp only [performMove, resumeMove]
    split
    · rename_i x hx
      have : s.feeder.busy = true := by simpa [State.enables, Port.isHolding_iff.mpr ⟨x, hx⟩] using h
      simp [this]
    · rfl
  | feeder => exact .inl (by simp [performMove, feederMove, show s.feeder.busy = false from h])
  | transfer e => exact .inl (by simp [performMove, transferMove, show (s.eng e).run = false from h])

/-- When a context has an enabled step: it can issue, or its held FEED may go on. -/
theorem State.enabled_context {s : State} {p : Nat} :
    s.enabled (.context p) ↔ s.canIssue p = true ∨ (s.feeder.busy = false ∧ ∃ x, (s.port p).issuer = .holding x) := by
  constructor
  · rintro ⟨m, ha, hm⟩
    cases m <;> simp only [agentOf, Agent.context.injEq, reduceCtorEq] at ha <;> subst ha <;>
      simp only [State.enables, Bool.and_eq_true, Bool.not_eq_true', Port.isHolding_iff] at hm
    · exact .inl hm
    · exact .inl hm.1.1
    · exact .inl hm.1
    · exact .inr hm
  · rintro (h | ⟨hb, hx⟩)
    · exact ⟨.command p none 0, rfl, h⟩
    · exact ⟨.resume p, rfl, by simp [State.enables, hb, Port.isHolding_iff.mpr hx]⟩

theorem State.enabled_feeder {s : State} : s.enabled .feeder ↔ s.feeder.busy = true := by
  constructor
  · rintro ⟨m, ha, hm⟩
    cases m <;> first | exact hm | cases ha
  · exact fun h => ⟨.feeder, rfl, h⟩

theorem State.enabled_transfer {s : State} {e : Eng} : s.enabled (.transfer e) ↔ (s.eng e).run = true := by
  constructor
  · rintro ⟨m, ha, hm⟩
    cases m <;> cases ha
    exact hm
  · exact fun h => ⟨.transfer e, rfl, h⟩

/-- One step of a run: its move is performed on the state, but for the schedule and the count of free values taken. -/
theorem IsRun.performs {moves : Nat → Move} {r : Nat → State} (h : IsRun moves r) (k : Nat) :
    ∃ l n, performMove (moves k) { r k with agenda := l, fresh := n } = .next (r (k + 1)) := by
  obtain ⟨l, hm, hs⟩ := h k
  unfold step at hs
  rw [hm] at hs
  cases l with
  | nil => exact ⟨[], _, hs⟩
  | cons m rest => exact ⟨rest, _, hs⟩

/-- Under fairness a FEED that stays in progress has an element step (R178). -/
theorem WeaklyFair.feeds {moves : Nat → Move} {r : Nat → State} (hf : WeaklyFair moves r) {n : Nat}
    (h : ∀ k, n ≤ k → (r k).feeder.busy = true) : ∃ k, n ≤ k ∧ moves k = .feeder := by
  obtain ⟨k, hk, ha, -⟩ := hf .feeder n fun k hk => State.enabled_feeder.mpr (h k hk)
  exact ⟨k, hk, by cases hm : moves k <;> first | rfl | simp [hm, agentOf] at ha⟩

/-- Under fairness an engine that goes on running has an element step: it keeps emitting or capturing (R245). -/
theorem WeaklyFair.transfers {moves : Nat → Move} {r : Nat → State} (hf : WeaklyFair moves r) {e : Eng} {n : Nat}
    (h : ∀ k, n ≤ k → ((r k).eng e).run = true) : ∃ k, n ≤ k ∧ moves k = .transfer e := by
  obtain ⟨k, hk, ha, -⟩ := hf (.transfer e) n fun k hk => State.enabled_transfer.mpr (h k hk)
  exact ⟨k, hk, by cases hm : moves k <;> simp_all [agentOf]⟩

/-- Under fairness a FEED that is held, with no other in progress from some point on, is performed: its context cannot satisfy
fairness by moves that are passed over (R177, R245). -/
theorem WeaklyFair.resumes {moves : Nat → Move} {r : Nat → State} (hf : WeaklyFair moves r) {p n : Nat}
    (hb : ∀ k, n ≤ k → (r k).feeder.busy = false) (hh : ∀ k, n ≤ k → ∃ x, ((r k).port p).issuer = .holding x) :
    ∃ k, n ≤ k ∧ moves k = .resume p := by
  obtain ⟨k, hk, ha, he⟩ := hf (.context p) n fun k hk => State.enabled_context.mpr (.inr ⟨hb k hk, hh k hk⟩)
  obtain ⟨x, hx⟩ := hh k hk
  have hc : (r k).canIssue p = false := by simp [State.canIssue, hx]
  refine ⟨k, hk, ?_⟩
  cases hm : moves k <;> simp_all [agentOf, State.enables]

/-- A legal launch that gives the two ring agents their own ports is clean (R246). -/
theorem cleanLaunch_resetWith {p : Params} (hl : p.legal = true) (ho : p.ownPorts = true) : CleanLaunch (State.resetWith p) where
  legal := hl
  fromReset := rfl
  noFault := rfl
  stopped := fun e => by cases e <;> rfl
  noChannel := fun e x => by cases e <;> cases x <;> exact ⟨rfl, rfl⟩
  noFeed := rfl
  noneStalled := fun k hk => by
    have hk : k < p.nports := hk
    simp [State.canIssue, State.resetWith, State.port, List.getD, hk, Port.reset, Feeder.reset]
  lines := fun e x => by cases e <;> cases x <;> rfl
  silent := rfl
  roles := ho

end Sys2Proof.Machine
end

