-- ==== Sys2Proof/Tests/Slice0.lean ====
section
/-!
SUPPORT. Tests of the model: the checks refuse ill-formed terms, words written out from the spec's encodings decode, one command or one
element step gives what the vectors of 95_test_vectors give, and every statement's hypotheses are met by a concrete state. The
expected values are the spec's, never the model's own.
-/
namespace Sys2Proof.Tests

open Sys2Proof Sys2Proof.Machine

/-! ### Helpers -/

/-- A reset block with ring capacity `C` and buffer length `S` (95_test_vectors: W_IN = 16, PRODUCER on port 0, CONSUMER on port
1). -/
def block (C S : Nat) : State := State.resetWith { Params.default with capacity := C, bufLen := S }

/-- The state an answer gives. -/
def stateOf (a : Answer) (s : State) : State :=
  match a with
  | .next t => t
  | _ => s

/-- The state after the context of port `p` issues the command word `w`. -/
def issue (p : Nat) (data : Option Word) (w : Word) (s : State) : State := stateOf (performMove (.command p data w) s) s

/-- `STAT`, `RES` and `RES2` of port `p`, as numbers. -/
def results (p : Nat) (s : State) : Nat × Nat × Nat := ((s.port p).stat.toNat, (s.port p).res.toNat, (s.port p).res2.toNat)

/-- A ring of capacity 8 with its cursors at `wr` and `rd` (V-RB). -/
def ringAt (wr rd : Nat) (m : Memory) : State := { block 8 2 with wr := wr, rd := rd, ring := m }

/-- Engine OUT after BOOT_OUT with `S = 2`: A active and valid, B armed (V-DMA-5, R234). -/
def bootedOut : Engine := ⟨true, true, ⟨false, true, true, 0, false, true⟩, ⟨true, false, false, 0, false, true⟩, [], []⟩

/-- A block with `S = 2` whose engine OUT is as after BOOT_OUT. -/
def running : State := { block 8 2 with outEng := bootedOut }

/-- The same for engine CAP. -/
def capturing : State := { block 8 2 with capEng := bootedOut }

/-- The state after one element step of engine `e`. -/
def element (e : Eng) (s : State) : State := stateOf (performMove (.transfer e) s) s

/-- The state after one step of the feeder. -/
def feedStep (s : State) : State := stateOf (performMove .feeder s) s

/-- A buffer's elements from 0 on. -/
def elements (m : Memory) (n : Nat) : List Nat := (List.range n).map fun i => (m.read i).toNat

/-! ### Ill-formed terms are refused (WellFormed) -/

theorem test_blkClear_mask_illFormed : (Instr.blkClear 4).wellFormed = false := by decide
theorem test_blkClear_mask_wellFormed : (Instr.blkClear 3).wellFormed = true := by decide
theorem test_default_params_legal : Params.default.legal = true := by decide
theorem test_capacity_too_small : { Params.default with capacity := 1 }.legal = false := by decide
theorem test_capacity_too_large : { Params.default with capacity := 65536 }.legal = false := by decide
theorem test_width_too_small : { Params.default with wIn := 0 }.legal = false := by decide
theorem test_width_too_large : { Params.default with wIn := 33 }.legal = false := by decide
theorem test_bufLen_too_small : { Params.default with bufLen := 0 }.legal = false := by decide
theorem test_bufLen_too_large : { Params.default with bufLen := 32768 }.legal = false := by decide
theorem test_no_port : { Params.default with nports := 0 }.legal = false := by decide
/-- R246: the two ring agents on one port, an agent on a port that does not exist, and a block of one port are no clean launch. -/
theorem test_shared_port : { Params.default with consumer := 0 }.ownPorts = false := by decide
theorem test_role_without_port :
    { Params.default with producer := 4 }.ownPorts = false ∧ { Params.default with consumer := 4 }.ownPorts = false ∧
    { Params.default with nports := 1 }.ownPorts = false ∧ { Params.default with producer := 3 }.ownPorts = true := by decide
theorem test_too_many_ports : { Params.default with nports := 17 }.legal = false := by decide

/-! ### Words written out bit by bit: ARG[15:0], RSV[5:0], ENG, CH, OP[7:0] (R81, R86) -/

theorem test_decode_nop : decode 0b0000000000000000_000000_0_0_00000000#32 = .ok .nop := by rfl
theorem test_decode_blkStatus : decode 0b0000000000000000_000000_0_0_00000001#32 = .ok .blkStatus := by rfl
theorem test_decode_blkClear : decode 0b0000000000000011_000000_0_0_00000010#32 = .ok (.blkClear 3) := by rfl
theorem test_decode_rbCapacity : decode 0b0000000000000000_000000_0_0_00010000#32 = .ok .rbCapacity := by rfl
theorem test_decode_rbLength : decode 0b0000000000000000_000000_0_0_00010001#32 = .ok .rbLength := by rfl
theorem test_decode_rbEmpty : decode 0b0000000000000000_000000_0_0_00010010#32 = .ok .rbEmpty := by rfl
theorem test_decode_rbWriteHead : decode 0b0000000000000000_000000_0_0_00010011#32 = .ok .rbWriteHead := by rfl
theorem test_decode_rbDistWrap : decode 0b0000000000000000_000000_0_0_00010100#32 = .ok .rbDistWrap := by rfl
theorem test_decode_rbStore : decode 0b0000000000000101_000000_0_0_00010101#32 = .ok (.rbStore 5) := by rfl
theorem test_decode_rbAdvanceWrite : decode 0b1111111111111111_000000_0_0_00010110#32 = .ok (.rbAdvanceWrite 65535) := by rfl
theorem test_decode_rbReadOne : decode 0b0000000000000000_000000_0_0_00010111#32 = .ok .rbReadOne := by rfl
theorem test_decode_dmaInit : decode 0b0000000000000000_000000_1_0_00100000#32 = .ok (.dmaInit .cap) := by rfl
theorem test_decode_dmaStart : decode 0b0000000000000000_000000_1_0_00100001#32 = .ok (.dmaStart .cap) := by rfl
theorem test_decode_dmaArm : decode 0b0000000000110000_000000_1_1_00100010#32 = .ok (.dmaArm .cap .b 48) := by rfl
theorem test_decode_dmaAck : decode 0b0000000000000000_000000_0_1_00100011#32 = .ok (.dmaAck .out .b) := by rfl
theorem test_decode_dmaStatus : decode 0b0000000000000000_000000_1_0_00100100#32 = .ok (.dmaStatus .cap) := by rfl
theorem test_decode_bufWrite : decode 0b0000000000000011_000000_0_1_00100101#32 = .ok (.bufWrite .out .b 3) := by rfl
theorem test_decode_bufRead : decode 0b0000000000000001_000000_1_0_00100110#32 = .ok (.bufRead .cap .a 1) := by rfl
theorem test_decode_cvt : decode 0b0000000000000000_000000_0_0_00110000#32 = .ok .cvt := by rfl
theorem test_decode_feed : decode 0b0000000000000000_000000_0_1_00110001#32 = .ok (.feed .b) := by rfl

/-- V-ENC-2 to V-ENC-6 and V-ENC-10 to V-ENC-12: why each word is illegal (R88). -/
theorem test_illegal_words :
    decode 0x00000003#32 = .error .unknownOpcode ∧ decode 0x00000410#32 = .error .reservedNonzero ∧
    decode 0x00010010#32 = .error .fixedFieldNonzero ∧ decode 0x00000231#32 = .error .fixedFieldNonzero ∧
    decode 0x00000120#32 = .error .fixedFieldNonzero ∧ decode 0x00040002#32 = .error .fixedFieldNonzero ∧
    decode 0x00038002#32 = .error .reservedNonzero ∧ decode 0x000000FF#32 = .error .unknownOpcode :=
  ⟨rfl, rfl, rfl, rfl, rfl, rfl, rfl, rfl⟩

/-- R90's examples, encoded. -/
theorem test_encode_examples :
    encode (.rbStore 5) = 0x00050015#32 ∧ encode (.dmaArm .out .b 48) = 0x00300122#32 ∧ encode (.feed .b) = 0x00000131#32 ∧
    encode (.blkClear 3) = 0x00030002#32 := by decide

/-- V-ENC-2: an illegal word ends with ERR_ILLEGAL. -/
theorem test_illegal_refused : results 0 (issue 0 none 0x00000003#32 (block 8 2)) = (1, 0, 0) := by decide

/-- The host's word placement: the first step after reset runs the word. DMA_INIT.out arms channel A (R130). -/
theorem test_withFetchWord_runs :
    (stateOf (step (State.reset.withFetchWord 32 0x20)) State.reset).outEng.chA = ⟨true, false, false, 0, false, true⟩ := by
  decide

/-! ### One command each (95_test_vectors) -/

/-- V-BLK-7. -/
theorem test_nop : results 0 (issue 0 none 0x00000000#32 (block 8 2)) = (0, 0, 0) := by decide
/-- V-BLK-3's second reading: OVERRUN alone. -/
theorem test_blkStatus_overrun :
    results 0 (issue 0 none 0x00000001#32 { block 8 2 with overrun := true }) = (0, 2, 0) := by decide
/-- P4 line 14: IRQ_CAP_B. -/
theorem test_blkStatus_irq :
    results 2 (issue 2 none 0x00000001#32
      { block 8 2 with capEng := { Engine.reset with chB := ⟨false, false, true, 2, true, true⟩ } }) = (0, 0x20, 0) := by decide
/-- V-BLK-3: BLK_CLEAR 1 clears STARVED and leaves OVERRUN. -/
theorem test_blkClear :
    let t := issue 0 none 0x00010002#32 { block 8 2 with starved := true, overrun := true }
    (t.starved, t.overrun) = (false, true) := by decide
/-- V-RB-1. -/
theorem test_rbCapacity : results 0 (issue 0 none 0x00000010#32 (block 8 2)) = (0, 8, 0) := by decide
/-- V-RB-3: lapped. -/
theorem test_rbLength_lapped : results 0 (issue 0 none 0x00000011#32 (ringAt 2 6 [])) = (0, 4, 0) := by decide
/-- V-RB-4: the largest length. -/
theorem test_rbLength_largest : results 0 (issue 0 none 0x00000011#32 (ringAt 1 2 [])) = (0, 7, 0) := by decide
/-- V-RB-5. -/
theorem test_rbEmpty_empty : results 0 (issue 0 none 0x00000012#32 (ringAt 3 3 [])) = (0, 1, 0) := by decide
/-- V-RB-6. -/
theorem test_rbEmpty_not : results 0 (issue 0 none 0x00000012#32 (ringAt 4 3 [])) = (0, 0, 0) := by decide
/-- V-RB-7. -/
theorem test_rbWriteHead : results 0 (issue 0 none 0x00000013#32 (ringAt 5 0 [])) = (0, 5, 0) := by decide
/-- V-RB-8. -/
theorem test_rbDistWrap_all : results 0 (issue 0 none 0x00000014#32 (ringAt 0 0 [])) = (0, 8, 0) := by decide
/-- V-RB-9. -/
theorem test_rbDistWrap_one : results 0 (issue 0 none 0x00000014#32 (ringAt 7 0 [])) = (0, 1, 0) := by decide
/-- V-RB-10, and V-RB-13's ignored upper bits. -/
theorem test_rbStore_last :
    let t := issue 0 (some 0x1234ABCD#32) 0x00020015#32 (ringAt 5 0 [])
    (t.ring.read 7, t.wr, t.faults.spscViolation) = (0xABCD#32, 5, false) := by decide
/-- V-RB-11 from the wrong context: refused, and the violation recorded (R100, R201). -/
theorem test_rbStore_past_wrap :
    let t := issue 1 (some 0xABCD#32) 0x00030015#32 (ringAt 5 0 [])
    (results 1 t, t.ring, t.faults.spscViolation) = ((4, 0, 0), [], true) := by decide
/-- V-RB-16: an overrun under OVERRUN_DETECT. -/
theorem test_rbAdvanceWrite_overrun :
    let s := ringAt 5 2 []
    let t := issue 0 none 0x00050016#32 { s with par := { s.par with overrunDetect := true } }
    (t.wr, t.overrun) = (2, true) := by decide
/-- V-RB-18: the largest count; OVERRUN is not set without OVERRUN_DETECT. -/
theorem test_rbAdvanceWrite_largest :
    let t := issue 0 none 0xFFFF0016#32 (ringAt 0 0 [])
    (t.wr, t.overrun) = (7, false) := by decide
/-- V-RB-19: a negative sample is sign-extended. -/
theorem test_rbReadOne_sign :
    let t := issue 1 none 0x00000017#32 (ringAt 3 2 [(2, 0xFFFF#32)])
    (results 1 t, t.rd) = ((0, 0xFFFFFFFF, 0), 3) := by decide
/-- V-RB-24: an empty read by PRODUCER still advances the cursor, takes a free value, and records the violation. -/
theorem test_rbReadOne_empty :
    let t := issue 0 none 0x00000017#32 (block 8 2)
    (t.rd, t.fresh, t.faults.spscViolation) = (1, 1, true) := by decide
/-- V-DMA-4. -/
theorem test_dmaInit : (stateOf (execDmaInit .out (block 8 2)) (block 8 2)).outEng.status = 0x331#32 := by decide
/-- V-DMA-6. -/
theorem test_dmaInit_running : results 1 (issue 1 none 0x00000020#32 running) = (2, 0, 0) := by decide
/-- V-DMA-5. -/
theorem test_dmaStart :
    (issue 1 none 0x00000021#32 { block 8 2 with outEng := Engine.reset.initialised }).outEng = bootedOut := by decide
/-- V-DMA-1. -/
theorem test_dmaStart_before_init : results 1 (issue 1 none 0x00000021#32 (block 8 2)) = (2, 0, 0) := by decide
/-- V-DMA-8: BUSY before RANGE. -/
theorem test_dmaArm_busy_first : results 1 (issue 1 none 0x00050022#32 running) = (3, 0, 0) := by decide
/-- V-DMA-9. -/
theorem test_dmaArm_range : results 1 (issue 1 none 0x00010122#32 running) = (4, 0, 0) := by decide
/-- P3 line 13: the completion signal of B is taken. -/
theorem test_dmaAck :
    let s := { block 8 2 with outEng := { bootedOut with chB := ⟨false, false, true, 2, true, true⟩ } }
    let t := issue 1 none 0x00000123#32 s
    (results 1 t, t.outEng.chB.pend) = ((0, 1, 0), false) := by decide
/-- V-DMA-17. -/
theorem test_dmaAck_nothing : results 1 (issue 1 none 0x00000023#32 (block 8 2)) = (0, 0, 0) := by decide
/-- P4 line 13: INIT + RUN + ACT_A + PEND_B + IE_A + IE_B. -/
theorem test_dmaStatus :
    let s := { block 8 2 with capEng := ⟨true, true, ⟨false, true, true, 0, false, true⟩, ⟨false, false, true, 2, true, true⟩, [], []⟩ }
    results 2 (issue 2 none 0x00000224#32 s) = (0, 0x387, 0) := by decide
/-- V-DMA-18's status: POS = 1. -/
theorem test_dmaStatus_pos :
    results 1 (issue 1 none 0x00000024#32
      { running with outEng := { bootedOut with chA := ⟨false, true, true, 1, false, true⟩ } }) = (0, 0x00010327, 0) := by decide
/-- V-DMA-12: the last word of an output buffer. -/
theorem test_bufWrite_last :
    elements (issue 1 (some 0x7FFF0000#32) 0x00030125#32 running).outEng.bufB 4 = [0, 0, 0, 0x7FFF0000] := by decide
/-- V-DMA-11. -/
theorem test_bufWrite_busy : results 1 (issue 1 (some 1#32) 0x00000025#32 running) = (3, 0, 0) := by decide
/-- V-DMA-24. -/
theorem test_bufRead_sign :
    results 2 (issue 2 none 0x00010226#32
      { block 8 2 with capEng := { Engine.reset with bufA := [(0, 0x1234#32), (1, 0xFEDC#32)] } }) = (0, 0xFFFFFEDC, 0) := by decide
/-- V-DMA-16. -/
theorem test_bufRead_range : results 2 (issue 2 none 0x00020226#32 (block 8 2)) = (4, 0, 0) := by decide
/-- V-CVT-6. -/
theorem test_cvt_ignores_high :
    results 0 (issue 0 (some 0x12348000#32) 0x00000030#32 (block 8 2)) = (0, 0x80000000, 0x80000000) := by decide
/-- V-CVT-10: one-bit samples. -/
theorem test_cvt_one_bit :
    results 0 (issue 0 (some 1#32) 0x00000030#32 (State.resetWith { Params.default with wIn := 1 })) =
      (0, 0x80000000, 0x80000000) := by decide
/-- V-FEED-4. -/
theorem test_feed_busy : results 1 (issue 1 none 0x00000031#32 running) = (3, 0, 0) := by decide
/-- V-FEED-1's start step: two real samples. -/
theorem test_feed_start : (issue 1 none 0x00000031#32 (ringAt 3 0 [])).feeder = ⟨true, 1, .a, 2, 0⟩ := by decide

/-! ### One element step each -/

/-- A FEED.a of two real samples in progress on port 1, one element done (V-FEED-1). -/
def feeding : State :=
  { ringAt 3 1 [(0, 3#32), (1, 4#32), (2, 5#32)] with
    feeder := ⟨true, 1, .a, 2, 1⟩
    outEng := { Engine.reset with bufA := [(0, 0x30000#32), (1, 0x30000#32)] } }

/-- V-FEED-1's last element step and its end. -/
theorem test_feeder_last :
    let t := feedStep feeding
    (elements t.outEng.bufA 4, results 1 t, t.rd, t.starved) = ([0x30000, 0x30000, 0x40000, 0x40000], (0, 2, 0), 2, false) := by
  decide
/-- V-FEED-3's silence tail: one real sample, STARVED. -/
theorem test_feeder_silence :
    let t := feedStep { feeding with feeder := ⟨true, 1, .a, 1, 1⟩ }
    (elements t.outEng.bufA 4, results 1 t, t.rd, t.starved) = ([0x30000, 0x30000, 0, 0], (0, 1, 1), 1, true) := by decide
/-- V-FEED-6: the abort. -/
theorem test_feeder_abort :
    let t := feedStep { feeding with outEng := { bootedOut with bufA := [(0, 0x30000#32)] } }
    (results 1 t, t.rd, t.feeder.busy, elements t.outEng.bufA 4) = ((3, 1, 0), 1, false, [0x30000, 0, 0, 0]) := by decide
/-- V-DMA-19: the last element of A completes it and triggers B. -/
theorem test_out_completes :
    let t := element .out { running with outEng := { bootedOut with chA := ⟨false, true, true, 1, false, true⟩ } }
    (t.outEng.status.toNat, t.blockStatus.toNat, t.serialOut) = (0x34B, 4, [⟨0, 0⟩]) := by decide
/-- V-DMA-22: a transfer that is not valid emits free values. -/
theorem test_out_garbage :
    (element .out { running with outEng := { bootedOut with chA := ⟨false, true, false, 0, false, true⟩ } }).fresh = 2 := by decide
/-- V-DMA-21: the trigger of a channel that is not armed. -/
theorem test_missed_rearm :
    let s := { running with outEng := ⟨true, true, ⟨false, true, true, 1, false, true⟩, ⟨false, false, true, 2, false, true⟩, [], []⟩ }
    let t := element .out s
    (t.faults.missedRearm, t.outEng.chB) = (true, ⟨false, true, false, 0, false, true⟩) := by decide
/-- V-DMA-23's second step: the sampler's 0xFEDC. -/
theorem test_cap_stores :
    let s := { capturing with sampler := [0xFEDC#32]
                              capEng := { bootedOut with chA := ⟨false, true, true, 1, false, true⟩, bufA := [(0, 0x1234#32)] } }
    let t := element .cap s
    (elements t.capEng.bufA 2, t.capEng.chA.pend, t.capEng.chB.active) = ([0x1234, 0xFEDC], true, true) := by decide
/-- V-DMA-25: a capture that was triggered unarmed drops its samples. -/
theorem test_cap_drops :
    let s := { capturing with sampler := [1#32, 2#32]
                              capEng := { bootedOut with chA := ⟨false, true, false, 0, false, true⟩, bufA := [(0, 0x1234#32)] } }
    let t := element .cap s
    (elements t.capEng.bufA 2, t.sampler, t.capEng.chA.pos) = ([0x1234, 0], [2#32], 1) := by decide

/-! ### The host bus (R62, R64) -/

/-- A narrow access sticks its context; a held FEED waits for the one in progress, then starts. -/
theorem test_narrow_access_sticks :
    ((stateOf (performMove (.busWrite 0 2 0 0) (block 8 2)) (block 8 2)).port 0).issuer = .stuck := by decide
/-- R177: a second FEED holds. -/
theorem test_second_feed_holds : ((issue 2 none 0x00000131#32 feeding).port 2).issuer = .holding .b := by decide
/-- R177, R179: once no FEED is in progress the held one starts. -/
theorem test_held_feed_resumes :
    let s := (block 8 2).setPort 2 { Port.reset with issuer := .holding .b }
    (stateOf (performMove (.resume 2) s) s).feeder = ⟨true, 2, .b, 0, 0⟩ := by decide
/-- R64. -/
theorem test_bytes : byteOf 0x12345678#32 0 = 0x78#8 ∧ byteOf 0x12345678#32 3 = 0x12#8 := by decide

/-! ### Every statement's hypotheses are met

`live` meets the invariant with both engines running, four samples of room in the ring and nothing stuck; `feedLive` is the same
with a FEED of channel B in progress. -/

/-- Both engines running after their boot; three unread samples that wrap. -/
def live : State :=
  { State.resetWith { Params.default with capacity := 4, bufLen := 2, nports := 2 } with
    ring := [(0, 0x11#32), (2, 0x22#32), (3, 0x8000#32)]
    wr := 1
    rd := 2
    outEng := { bootedOut with bufA := [(1, 0x10000#32)] }
    capEng := bootedOut
    agenda := [.command 0 none 0#32]
    cur := 1 }

/-- A FEED of channel B in progress, before its last element. -/
def feedLive : State := { live with feeder := ⟨true, 1, .b, 2, 1⟩, agenda := [.feeder] }

theorem bootedOut_inv (m : Memory) : Engine.Inv 2 { bootedOut with bufA := m } := by
  refine ⟨?_, ?_, ?_, ?_, ?_, ?_⟩ <;> simp [bootedOut, Channel.Inv]

theorem live_inv : live.Inv := by
  refine ⟨by decide, by decide, by decide, by decide, by decide, by decide, bootedOut_inv _, bootedOut_inv [],
    ⟨by decide, by decide, ?_, ?_, ?_⟩, ⟨by decide, by decide, by decide⟩, by decide⟩
  · intro e x; cases e <;> cases x <;> decide
  · intro x; cases x <;> decide
  · intro x; cases x <;> decide

theorem feedLive_inv : feedLive.Inv := by
  obtain ⟨h1, h2, h3, h4, h5, h6, h7, h8, ⟨m1, m2, m3, m4, m5⟩, -, h11⟩ := live_inv
  refine ⟨h1, h2, h3, h4, h5, h6, h7, h8, ⟨m1, m2, ?_, m4, m5⟩, ⟨by decide, by decide, by decide⟩, h11⟩
  intro e x
  cases e
  · exact m3 .out x
  · exact m3 .cap x

/-- O2, O3: an instruction whose operand is at the end of its range. -/
theorem witness_encoding : (Instr.blkClear 3).wellFormed = true ∧ decode 0x00030002#32 = .ok (.blkClear 3) := ⟨by decide, rfl⟩

/-- O4: a word a row covers, and a word no row covers. -/
theorem witness_DecodeByOneRow :
    (opcodeTable.any fun r => 0xFFFF0016#32 &&& r.mask == r.pat) = true ∧
    (opcodeTable.all fun r => 0x00000003#32 &&& r.mask != r.pat) = true := by decide

/-- O5: the ends of each range of unused OPs, a reserved bit, and a fixed bit, each with an illegal word. -/
theorem witness_IllegalWordRefused :
    (opField 0x03#32 = 0x03#8 ∧ opField 0x0F#32 = 0x0F#8) ∧ (opField 0x18#32 = 0x18#8 ∧ opField 0x1F#32 = 0x1F#8) ∧
    (opField 0x27#32 = 0x27#8 ∧ opField 0x2F#32 = 0x2F#8) ∧ (opField 0x32#32 = 0x32#8 ∧ opField 0xFF#32 = 0xFF#8) ∧
    rsvField 0x00008000#32 ≠ 0 ∧
    (∃ r ∈ opcodeTable, opField r.pat = opField 0x00000120#32 ∧
      r.mask.getLsbD 8 = true ∧ r.pat.getLsbD 8 = false ∧ (0x00000120#32).getLsbD 8 = true) ∧
    (block 8 2).cur < (block 8 2).ports.length ∧ decode 0x00040002#32 = .error .fixedFieldNonzero := by
  decide

/-- O6: a transaction next on a port that can issue; O59: the owner of a FEED in progress cannot. -/
theorem witness_StepRunsDecoded :
    live.agenda = .command 0 none 0#32 :: [] ∧ live.canIssue 0 = true ∧ decode 0#32 = .ok .nop ∧
    feedLive.feeder.busy = true ∧ feedLive.canIssue feedLive.feeder.port = false := by decide

/-- O7 to O9, O12, O16, O17, O22 to O26, O28, O35, O37: an issuing port. -/
theorem witness_issuing_port : live.cur < live.ports.length := by decide

/-- O9: masks at both ends of the legal ones and the first illegal one. -/
theorem witness_BlkClearClearsSticky :
    (0#16).toNat < 4 ∧ (3#16).toNat < 4 ∧ 4 ≤ (4#16).toNat ∧ (1#16).getLsbD 0 = true ∧ (1#16).getLsbD 1 = false ∧
    (2#16).getLsbD 0 = false ∧ (2#16).getLsbD 1 = true := by decide

/-- O10, O11, O13, O14: the largest ring, its cursors at both ends; equal, ahead by one, and lapped. -/
theorem witness_ring_queries :
    (block 65535 2).cur < (block 65535 2).ports.length ∧ (block 65535 2).par.capacity ≤ 65535 ∧
    (∀ c ∈ [(0, 0), (65534, 65534), (1, 0), (65534, 0), (0, 65534), (0, 1)],
      ({ block 65535 2 with wr := c.1, rd := c.2 } : State).wr < 65535 ∧
      ({ block 65535 2 with wr := c.1, rd := c.2 } : State).rd < 65535) ∧
    step live = .next (stateOf (step live) live) := by
  refine ⟨by decide, by decide, by decide, rfl⟩

/-- O15: the last offset before the wrap point and the first past it. -/
theorem witness_RbStoreWritesOrRefuses :
    live.cur < live.ports.length ∧ live.ring.wf = true ∧ (2#16).toNat < live.par.capacity - live.wr ∧
    live.par.capacity - live.wr ≤ (3#16).toNat := by decide

/-- O16: the largest count that does not overrun and the first that does. -/
theorem witness_RbAdvanceWriteCommits :
    ¬ live.par.capacity - 1 - live.ringLength < (0#16).toNat ∧ live.par.capacity - 1 - live.ringLength < (1#16).toNat := by
  decide

/-- O17: a ring with a sample and an empty one. -/
theorem witness_RbReadOneAdvances : live.rd ≠ live.wr ∧ (ringAt 3 3 []).rd = (ringAt 3 3 []).wr := by decide

/-- O18 to O20: unread samples, an advance into the free room, a store below it. -/
theorem witness_ring_queue :
    live.wr < live.par.capacity ∧ live.rd < live.par.capacity ∧ live.unread = 0x22#32 :: [0x8000#32, 0x11#32] ∧
    (0#16).toNat ≤ live.par.capacity - 1 - live.ringLength ∧ (0#16).toNat < live.par.capacity - live.ringLength ∧
    exec (.rbStore 0) live = .next (stateOf (exec (.rbStore 0) live) live) := by
  refine ⟨by decide, by decide, by decide, by decide, by decide, rfl⟩

/-- O21: a block of `C` samples, which crosses the wrap point. -/
theorem witness_PushBlockSplitsAtWrap :
    live.Inv ∧ 1 < live.par.nports ∧ [1#32, 2#32, 3#32, 4#32].length ≤ live.par.capacity := ⟨live_inv, by decide, by decide⟩

/-- O22, O23: an engine that runs, one that is initialised and waits, and one before DMA_INIT. -/
theorem witness_engine_states :
    (live.eng .out).run = true ∧ (live.eng .out).inited = true ∧
    Engine.reset.initialised.inited = true ∧ Engine.reset.initialised.run = false ∧
    Engine.reset.initialised.chA.armed = true ∧ Engine.reset.inited = false ∧ Engine.reset.run = false := by decide

/-- O24, O27, O28: a channel in flight and one that is not; the lengths and the indices where the clauses meet. -/
theorem witness_channel_states :
    ((live.eng .out).ch .a).active = true ∧ ((live.eng .out).ch .b).active = false ∧ (2#16).toNat = live.par.bufLen ∧
    (1#16).toNat ≠ live.par.bufLen ∧ (3#16).toNat ≠ live.par.bufLen ∧ (3#16).toNat < 2 * live.par.bufLen ∧
    2 * live.par.bufLen ≤ (4#16).toNat ∧ (1#16).toNat < live.par.bufLen ∧ live.par.bufLen ≤ (2#16).toNat ∧
    ((live.eng .out).buf .b).wf = true ∧ ((live.eng .cap).buf .b).wf = true := by decide

/-- O25: a channel with its completion pending and one without. -/
theorem witness_DmaAckTakesCompletion :
    (bootedOut.chA.completed).pend = true ∧ bootedOut.chA.pend = false := by decide

/-- O26: an active channel with the largest position a 16-bit POS shows, and an engine with none. -/
theorem witness_DmaStatusReadsEngine :
    let g := { bootedOut with chA := ⟨false, true, true, 65535, false, true⟩ }
    (g.ch .a).active = true ∧ (g.ch (other .a)).active = false ∧ (g.ch .a).pos < 65536 ∧
    Engine.reset.chA.active = false ∧ Engine.reset.chB.active = false := by decide

/-- O29, O30: an active channel of each engine, valid and not; a sampler with a sample and without; the last element and one that
is not. -/
theorem witness_element_steps :
    live.outEng.run = true ∧ live.outEng.activeCh = some .a ∧ (live.outEng.ch .a).valid = true ∧
    ({ bootedOut with chA := ⟨false, true, false, 1, false, true⟩ } : Engine).activeCh = some .a ∧
    live.capEng.run = true ∧ live.capEng.activeCh = some .a ∧ (live.capEng.buf .a).wf = true ∧ live.sampler = [] ∧
    ({ live with sampler := [5#32] } : State).sampler = 5#32 :: [] ∧
    (live.outEng.ch .a).pos + 1 ≠ live.par.bufLen ∧ 1 + 1 = live.par.bufLen := by decide

/-- O31: a valid transfer at its start. -/
theorem witness_TransferSendsBuffer :
    live.Inv ∧ live.outEng.run = true ∧ live.outEng.activeCh = some .a ∧ (live.outEng.ch .a).valid = true ∧
    (live.outEng.ch .a).pos = 0 := ⟨live_inv, by decide, by decide, by decide, by decide⟩

/-- O10, O32, O43, O44, O48 to O50: a step from a state that meets the invariant. -/
theorem witness_step :
    live.Inv ∧ (live.eng .out).run = true ∧ (live.eng .out).activeCh = some .a ∧
    step live = .next (stateOf (step live) live) ∧ step feedLive = .next (stateOf (step feedLive) feedLive) ∧
    step { live with agenda := [.transfer .out] } =
      .next (stateOf (step { live with agenda := [.transfer .out] }) live) := ⟨live_inv, by decide, by decide, rfl, rfl, rfl⟩

/-- O33: a buffer in flight, a command, and a feeder step. -/
theorem witness_InFlightBufferUntouched :
    feedLive.Inv ∧ ((feedLive.eng .out).ch .a).active = true ∧
    exec (.bufWrite .out .a 0) feedLive = .next (stateOf (exec (.bufWrite .out .a 0) feedLive) feedLive) ∧
    feedLive.feeder.busy = true ∧ performMove .feeder feedLive = .next (stateOf (performMove .feeder feedLive) feedLive) :=
  ⟨feedLive_inv, by decide, rfl, by decide, rfl⟩

/-- O34: the last element of A with B not armed. -/
theorem witness_MissedRearmRecorded :
    let s := { running with outEng := ⟨true, true, ⟨false, true, true, 1, false, true⟩, ⟨false, false, true, 2, true, true⟩, [], []⟩ }
    (s.eng .out).run = true ∧ (s.eng .out).activeCh = some .a ∧ ((s.eng .out).ch .a).pos + 1 = s.par.bufLen ∧
    ((s.eng .out).ch (other .a)).armed = false := by decide

/-- O36: the widths at both ends. -/
theorem witness_WidenScalesSigned :
    (1 ≤ ({ Params.default with wIn := 1 } : Params).wIn ∧ ({ Params.default with wIn := 1 } : Params).wIn ≤ 32) ∧
    (1 ≤ ({ Params.default with wIn := 32 } : Params).wIn ∧ ({ Params.default with wIn := 32 } : Params).wIn ≤ 32) := by decide

/-- O37: a FEED in progress, a buffer in flight, and a buffer that is not. -/
theorem witness_FeedStarts :
    feedLive.feeder.busy = true ∧ live.feeder.busy = false ∧ (live.outEng.ch .a).active = true ∧
    (live.outEng.ch .b).active = false := by decide

/-- O38, O39: the last real sample and the first silence; a ring with samples and without; a buffer in flight and not; the last
element and one before it. -/
theorem witness_feeder_steps :
    feedLive.feeder.busy = true ∧ (feedLive.outEng.buf feedLive.feeder.ch).wf = true ∧
    feedLive.feeder.port < feedLive.ports.length ∧ (feedLive.outEng.ch feedLive.feeder.ch).active = false ∧
    (feedLive.outEng.ch .a).active = true ∧ feedLive.feeder.i < feedLive.feeder.n ∧
    (⟨true, 1, .b, 1, 1⟩ : Feeder).n ≤ (⟨true, 1, .b, 1, 1⟩ : Feeder).i ∧ feedLive.rd ≠ feedLive.wr ∧
    feedLive.feeder.i + 1 = feedLive.par.bufLen ∧ 0 + 1 ≠ feedLive.par.bufLen := by decide

/-- O40: a FEED that can start. -/
theorem witness_FeedFillsWithSilence :
    live.Inv ∧ live.feeder.busy = false ∧ (live.outEng.ch .b).active = false := ⟨live_inv, by decide, by decide⟩

/-- O42, O60: legal parameters at both ends of their ranges, and a port. -/
theorem witness_legal_params :
    (⟨2, 1, 1, 1, false, 0, 0⟩ : Params).legal = true ∧ (⟨65535, 32, 32767, 16, true, 0, 15⟩ : Params).legal = true ∧
    15 < (⟨65535, 32, 32767, 16, true, 0, 15⟩ : Params).nports := by decide

/-- O45, O46: a command that ends with an error; a FEED that is refused. -/
theorem witness_errors :
    exec (.rbStore 7) live = .next (stateOf (exec (.rbStore 7) live) live) ∧
    ((stateOf (exec (.rbStore 7) live) live).port live.cur).stat ≠ 0 ∧ (∀ x, Instr.rbStore 7 ≠ .feed x) ∧
    exec (.feed .a) live = .next (stateOf (exec (.feed .a) live) live) ∧
    ((stateOf (exec (.feed .a) live) live).port live.cur).stat ≠ 0 ∧
    live.feeder.busy = false ∧ (live.outEng.ch .a).active = true := by
  refine ⟨rfl, by decide, (fun x h => by cases h), rfl, by decide, by decide, by decide⟩

/-- O47, O51, O53: commands that are none of those a clause leaves out, on a state where the clause has something to keep. -/
theorem witness_other_commands :
    exec .nop live = .next (stateOf (exec .nop live) live) ∧ (∀ n, Instr.nop ≠ .rbAdvanceWrite n) ∧ Instr.nop ≠ .rbReadOne ∧
    (∀ m, Instr.nop ≠ .blkClear m) ∧ Instr.nop ≠ .dmaAck .out .a ∧ Instr.nop ≠ .dmaInit .out ∧
    (live.eng .out).run = true ∧ ((live.eng .out).ch .a).ie = true ∧ 0 ≠ live.cur ∧
    performMove (.transfer .cap) live = .next (stateOf (performMove (.transfer .cap) live) live) := by
  refine ⟨rfl, (fun n h => by cases h), by decide, (fun m h => by cases h), by decide, by decide, by decide, by decide, by decide, rfl⟩

/-- O55, O56: a context that can issue, and offsets of every register, of the first reserved one and of the last. -/
theorem witness_bus_accesses :
    live.canIssue 0 = true ∧ 1 < live.par.nports ∧
    ∀ off ∈ [0x00, 0x04, 0x08, 0x0C, 0x10, 0x14, 0x1C], off < 0x20 ∧ off % 4 = 0 := by decide

/-- O57: a narrow access, and a word access one byte off. -/
theorem witness_UnsupportedAccessSticks : live.canIssue 0 = true ∧ (2 ≠ 4 ∨ 0 % 4 ≠ 0) ∧ (4 ≠ 4 ∨ 1 % 4 ≠ 0) := by decide

/-- O52: an empty ring, a FEED with real samples left on it, and a transfer of OUT that is not valid. -/
theorem witness_DrawsTakeFreeWords :
    let f := { feeding with wr := 1 }
    let g := { bootedOut with chA := ⟨false, true, false, 0, false, true⟩ }
    (ringAt 3 3 []).cur < (ringAt 3 3 []).ports.length ∧ (ringAt 3 3 []).rd = (ringAt 3 3 []).wr ∧
    f.feeder.busy = true ∧ (f.outEng.ch f.feeder.ch).active = false ∧ (f.outEng.buf f.feeder.ch).wf = true ∧
    f.feeder.i < f.feeder.n ∧ f.rd = f.wr ∧
    g.run = true ∧ g.activeCh = some .a ∧ (g.ch .a).valid = false := by decide

/-- O59: a held FEED, with another in progress and with none. -/
theorem witness_FeedStallsIssuer :
    let q := { Port.reset with issuer := .holding .b }
    ((feedLive.setPort 0 q).port 0).issuer = .holding .b ∧ (feedLive.setPort 0 q).feeder.busy = true ∧
    0 < (live.setPort 0 q).ports.length ∧ ((live.setPort 0 q).port 0).issuer = .holding .b ∧
    (live.setPort 0 q).feeder.busy = false := by decide

/-! O54: a fair run of a block of one port. The FEED in progress has its last element step; then its context, no more stalled,
issues NOP for ever, which leaves the same state each time. -/

/-- A FEED of one element in progress. -/
def lastFeed : State :=
  { State.resetWith { Params.default with bufLen := 1, nports := 1 } with feeder := ⟨true, 0, .a, 0, 0⟩ }

/-- Its last element, then NOP. -/
def fairMoves (k : Nat) : Move :=
  match k with
  | 0 => .feeder
  | _ + 1 => .command 0 none 0

/-- The states: before the last element, after it, and after any number of NOPs. -/
def fairRun (k : Nat) : State :=
  match k with
  | 0 => lastFeed
  | 1 => lastFeed.feederStep
  | _ + 2 => stateOf (performMove (.command 0 none 0) lastFeed.feederStep) lastFeed

theorem fairRun_isRun : IsRun fairMoves fairRun := by
  intro k
  refine ⟨[fairMoves k], rfl, ?_⟩
  match k with
  | 0 => rfl
  | 1 => rfl
  | _ + 2 => rfl

/-- After the FEED nothing but the context of port 0 has a step. -/
theorem fairRun_enabled {k : Nat} {a : Agent} (h : (fairRun (k + 1)).enabled a) : a = .context 0 := by
  have hb : (fairRun (k + 1)).feeder.busy = false := by cases k <;> rfl
  have hl : (fairRun (k + 1)).ports.length = 1 := by cases k <;> rfl
  cases a with
  | context p =>
    by_cases hp : p < 1
    · rw [show p = 0 by omega]
    · have hr : ((fairRun (k + 1)).port p).issuer = .ready := by
        unfold State.port
        rw [List.getD_eq_default _ _ (by omega)]
        rfl
      rcases State.enabled_context.mp h with h | ⟨-, x, h⟩
      · simp [State.canIssue, hl, hp] at h
      · rw [hr] at h; cases h
  | feeder => rw [State.enabled_feeder, hb] at h; cases h
  | transfer e =>
    have hr : ((fairRun (k + 1)).eng e).run = false := by cases k <;> cases e <;> rfl
    rw [State.enabled_transfer, hr] at h; cases h

theorem fairRun_fair : WeaklyFair fairMoves fairRun := by
  intro a n h
  cases fairRun_enabled (h (n + 1) (by omega))
  exact ⟨n + 1, by omega, rfl, by cases n <;> rfl⟩

/-- O54: the run is fair, starts from a state that meets the invariant, and has a FEED in progress there. -/
theorem witness_FeedInProgressEnds :
    IsRun fairMoves fairRun ∧ WeaklyFair fairMoves fairRun ∧ (fairRun 0).Inv ∧ (fairRun 0).feeder.busy = true := by
  refine ⟨fairRun_isRun, fairRun_fair, ?_, rfl⟩
  refine ⟨by decide, by decide, by decide, by decide, by decide, by decide, Engine.reset_inv 1, Engine.reset_inv 1,
    ⟨by decide, by decide, ?_, ?_, ?_⟩, ⟨by decide, by decide, by decide⟩, by decide⟩
  · intro e x; cases e <;> cases x <;> decide
  · intro x; cases x <;> decide
  · intro x; cases x <;> decide

/-- R245: a held FEED with none in progress is an enabled step of its context, and a command of that context is not. -/
theorem test_passed_over_is_not_enabled :
    let s := (block 8 2).setPort 2 { Port.reset with issuer := .holding .b }
    s.enables (.resume 2) = true ∧ s.enables (.command 2 none 0) = false := by decide

/-- R246: reset, as State.reset has it, is a clean launch. -/
theorem test_reset_is_clean : CleanLaunch State.reset := cleanLaunch_resetWith (by decide) (by decide)

end Sys2Proof.Tests
end

section
/-!
SUPPORT. The proofs of the scope family (00_scope): reset meets the invariant (O42), nothing halts the block (O44), and what the
draws take (O52).
-/
namespace Sys2Proof.Machine

open Sys2Proof

/-! ### Reset -/

/-- Every element space is empty after reset (R32, R39, R47). -/
theorem State.resetWith_memInv (p : Params) : (State.resetWith p).MemInv where
  ringWf := Memory.wf_nil
  ringFits := Memory.fits_nil _ _
  bufWf := fun e x => by cases e <;> cases x <;> exact Memory.wf_nil
  outFits := fun x => by cases x <;> exact Memory.fits_nil _ _
  capFits := fun x => by cases x <;> exact Memory.fits_nil _ _

/-- No FEED is in progress after reset (R43). -/
theorem State.resetWith_feedInv (p : Params) : (State.resetWith p).FeedInv where
  port := nofun
  count := Nat.zero_le _
  done := nofun

/-- Settles O42: the element spaces are empty, the engines and the feeder at rest, and the parameters' lower bounds put port 0 and
both cursors in range. -/
theorem resetMeetsInvariant : Obligations.ResetMeetsInvariant := by
  intro p hp
  obtain ⟨hC, -, -, -, -, -, hN, -⟩ := (Params.legal_iff p).mp hp
  exact
    { legal := hp
      ports := List.length_replicate
      cur := hN
      codes := fun q hq => by rw [List.eq_of_mem_replicate hq]; decide
      wr := Nat.lt_of_lt_of_le Nat.two_pos hC
      rd := Nat.lt_of_lt_of_le Nat.two_pos hC
      outEng := Engine.reset_inv _
      capEng := Engine.reset_inv _
      mem := State.resetWith_memInv p
      feed := State.resetWith_feedInv p
      overrun := fun _ => rfl }

/-! ### Every move answers -/

/-- A word written to CMD answers, legal or not (R11, R88). -/
theorem performWord_answers (w : Word) (s : State) : ∃ t, performWord w s = .next t := by
  unfold performWord
  split
  · exact exec_answers _ s
  · exact ⟨_, rfl⟩

/-- A write the bus accepts answers (R62). -/
theorem memWrite_answers (p off : Nat) (v : Word) (s : State) : ∃ t, memWrite p off v s = .next t := by
  unfold memWrite
  split_ifs
  · exact performWord_answers _ _
  · exact ⟨_, rfl⟩
  · exact ⟨_, rfl⟩

theorem commandMove_answers (p : Nat) (data : Option Word) (w : Word) (s : State) :
    ∃ t, commandMove p data w s = .next t := by
  unfold commandMove
  split_ifs
  · exact performWord_answers _ _
  · exact ⟨_, rfl⟩

theorem busWriteMove_answers (p width addr : Nat) (v : Word) (s : State) :
    ∃ t, busWriteMove p width addr v s = .next t := by
  unfold busWriteMove
  split_ifs
  · exact ⟨_, rfl⟩
  · exact ⟨_, rfl⟩
  · exact ⟨_, rfl⟩
  · exact memWrite_answers _ _ _ _

theorem busReadMove_answers (p width addr : Nat) (s : State) : ∃ t, busReadMove p width addr s = .next t := by
  unfold busReadMove
  split_ifs <;> exact ⟨_, rfl⟩

theorem resumeMove_answers (p : Nat) (s : State) : ∃ t, resumeMove p s = .next t := by
  unfold resumeMove
  split
  · split
    · exact ⟨_, rfl⟩
    · exact exec_answers _ _
  · exact ⟨_, rfl⟩

/-- The feeder's move while a FEED is in progress is its element step (R178). -/
theorem performMove_feeder {s : State} (hb : s.feeder.busy = true) : performMove .feeder s = .next s.feederStep := by
  simp [performMove, feederMove, hb]

/-- The move of a running engine's transfer agent is the element step of the active channel (R150, R151). -/
theorem performMove_transfer {s : State} {e : Eng} {x : Chan} (hr : (s.eng e).run = true)
    (hx : (s.eng e).activeCh = some x) : performMove (.transfer e) s = .next (s.element e x) := by
  simp [performMove, transferMove, transferStep, hr, hx]

/-- The one fault of the model is ruled out where the engines meet their invariant: a running engine has an active channel
(R42). -/
theorem performMove_transfer_answers {s : State} (h : s.Inv) (e : Eng) : ∃ t, performMove (.transfer e) s = .next t := by
  cases hr : (s.eng e).run with
  | false => exact ⟨s, by simp [performMove, transferMove, hr]⟩
  | true =>
    obtain ⟨x, hx⟩ := (h.eng e).exists_active hr
    exact ⟨_, performMove_transfer hr hx⟩

theorem performMove_answers {s : State} (h : s.Inv) (m : Move) : ∃ t, performMove m s = .next t := by
  cases m with
  | command p data w => exact commandMove_answers p data w s
  | busWrite p width addr v => exact busWriteMove_answers p width addr v s
  | busRead p width addr => exact busReadMove_answers p width addr s
  | resume p => exact resumeMove_answers p s
  | feeder => exact ⟨_, rfl⟩
  | transfer e => exact performMove_transfer_answers h e

/-- Settles O44: taking the next move keeps the invariant, under which every move answers. -/
theorem nothingHalts : Obligations.NothingHalts :=
  fun s h => performMove_answers h.moveTaken s.nextMove

/-! ### Draws -/

theorem State.ringEmpty_iff {s : State} : s.ringEmpty = true ↔ s.rd = s.wr := by simp [State.ringEmpty]

@[simp] theorem State.ringEmpty_readSide (s : State) : s.readSide.ringEmpty = s.ringEmpty := rfl

@[simp] theorem State.ringSample_readSide (s : State) : s.readSide.ringSample = s.ringSample := rfl

/-- A read of an empty ring takes its sample from the next free word (R108). -/
theorem State.ringSample_of_empty {s : State} (h : s.ringEmpty = true) :
    s.ringSample = sampleOf s.par (Config.freeWord s.fresh) := by
  simp [State.ringSample, h, State.freeWord]

/-- What RB_READ_ONE answers (R108). -/
theorem exec_rbReadOne (s : State) :
    exec .rbReadOne s =
      .next (s.readSide.afterRingRead.completeOn s.cur (statusCode .ok) (sextSample s.par s.ringSample) 0) := by
  simp [exec, execRbReadOne, finish]

@[simp] theorem State.feedElement_outEng (s : State) :
    s.feedElement.outEng =
      s.outEng.setBuf s.feeder.ch (writeFrame (s.outEng.buf s.feeder.ch) s.feeder.i s.feedFrame) := by
  simp [State.feedElement]

@[simp] theorem State.feedElement_fresh (s : State) : s.feedElement.fresh = s.afterFeedRead.fresh := rfl

@[simp] theorem State.feedEnd_outEng (s : State) : s.feedEnd.outEng = s.outEng := rfl

@[simp] theorem State.feedEnd_fresh (s : State) : s.feedEnd.fresh = s.fresh := rfl

/-- A feeder step on a buffer that is not in flight is the element step proper; FEED's end, if it follows, changes no buffer and
takes no free word (R178, R179). -/
theorem feederStep_of_not_active {s : State} (ha : (s.outEng.ch s.feeder.ch).active = false) :
    s.feederStep.outEng = s.feedElement.outEng ∧ s.feederStep.fresh = s.feedElement.fresh := by
  unfold State.feederStep
  rw [if_neg (by simp [ha])]
  split_ifs <;> simp

/-- An element step of OUT emits one frame and takes its free words (R150). -/
theorem outElement_emits (s : State) (x : Chan) :
    (s.outElement x).serialOut = s.serialOut ++ [s.outFrame x] ∧
      (s.outElement x).fresh = (s.afterOutDraw x).fresh := by
  simp [State.outElement]

/-- The garbage frame of a transfer that is not valid is the next two free words (R150). -/
theorem State.outFrame_of_not_valid {s : State} {x : Chan} (hv : (s.outEng.ch x).valid = false) :
    s.outFrame x = ⟨Config.freeWord s.fresh, Config.freeWord (s.fresh + 1)⟩ := by
  simp [State.outFrame, hv, State.freeWord]

/-- RB_READ_ONE of an empty ring returns the sign extension of the next free word (R108). -/
theorem exec_rbReadOne_draws {s : State} (hc : s.cur < s.ports.length) (he : s.rd = s.wr) :
    ∃ t, exec .rbReadOne s = .next t ∧
      (t.port s.cur).res = ((Config.freeWord s.fresh).setWidth s.par.wIn : BitVec s.par.wIn).signExtend 32 ∧
      t.fresh = s.fresh + 1 := by
  have hempty := State.ringEmpty_iff.mpr he
  refine ⟨_, exec_rbReadOne s, ?_, by simp [hempty]⟩
  rw [State.port_completeOn_self (by simpa using hc), State.ringSample_of_empty hempty, sextSample_sampleOf]
  rfl

/-- A real element that FEED reads from an empty ring is the conversion of the next free word (R108, R178). -/
theorem performMove_feeder_draws {s : State} (hb : s.feeder.busy = true)
    (ha : (s.outEng.ch s.feeder.ch).active = false) (hw : (s.outEng.buf s.feeder.ch).wf = true)
    (hi : s.feeder.i < s.feeder.n) (he : s.rd = s.wr) :
    ∃ t, performMove .feeder s = .next t ∧
      readFrame (t.outEng.buf s.feeder.ch) s.feeder.i = convert s.par (Config.freeWord s.fresh) ∧
      t.fresh = s.fresh + 1 := by
  have hempty := State.ringEmpty_iff.mpr he
  obtain ⟨hout, hfresh⟩ := feederStep_of_not_active ha
  have hframe : s.feedFrame = convert s.par (Config.freeWord s.fresh) := by
    simp [State.feedFrame, hi, State.ringSample_of_empty hempty, convert]
  refine ⟨_, performMove_feeder hb, ?_, by simp [hfresh, hi, hempty]⟩
  rw [hout, State.feedElement_outEng, Engine.buf_setBuf_self, readFrame_writeFrame hw, if_pos rfl, hframe]

/-- A transfer of OUT that is not valid emits the next two free words (R150). -/
theorem performMove_transfer_out_draws {s : State} {x : Chan} (hr : s.outEng.run = true)
    (hx : s.outEng.activeCh = some x) (hv : (s.outEng.ch x).valid = false) :
    ∃ t, performMove (.transfer .out) s = .next t ∧
      t.serialOut = s.serialOut ++ [⟨Config.freeWord s.fresh, Config.freeWord (s.fresh + 1)⟩] ∧
      t.fresh = s.fresh + 2 := by
  obtain ⟨hemit, hfresh⟩ := outElement_emits s x
  refine ⟨_, performMove_transfer (e := .out) hr hx, ?_, ?_⟩
  · rw [← State.outFrame_of_not_valid hv]; exact hemit
  · exact hfresh.trans (by simp [hv])

/-- Settles O52: each of the three sites takes the next free words, and only those. -/
theorem drawsTakeFreeWords : Obligations.DrawsTakeFreeWords :=
  ⟨fun _ hc he => exec_rbReadOne_draws hc he,
    fun _ hb ha hw hi he => performMove_feeder_draws hb ha hw hi he,
    fun _ _ hr hx hv => performMove_transfer_out_draws hr hx hv⟩

end Sys2Proof.Machine
end

section
/-!
SUPPORT. The proofs of the state family (10_state), first part: every step keeps the block's invariant (O43).
-/
namespace Sys2Proof.Machine

open Sys2Proof

/-! ### Commands keep the invariant -/

/-- A port that is there is one of the `NPORTS` (R31). -/
theorem State.Inv.lt_nports {s : State} (h : s.Inv) {p : Nat} (hp : p < s.ports.length) : p < s.par.nports := h.ports ▸ hp

/-- An engine may be replaced by one that meets its invariant and has the same buffers. -/
theorem State.Inv.setEng_of_buf {s : State} (h : s.Inv) (e : Eng) {g : Engine} (hg : g.Inv s.par.bufLen)
    (hb : ∀ x, g.buf x = (s.eng e).buf x) : (s.setEng e g).Inv :=
  h.setEng e g hg (fun x => hb x ▸ h.mem.bufWf e x) (fun x => hb x ▸ h.bufFits e x)

/-- Two empty buffers suit any engine (R39, R130). -/
theorem State.Inv.initEngine {s : State} (h : s.Inv) {e : Eng} (hr : (s.eng e).run = false) :
    (s.setEng e (s.eng e).initialised).Inv :=
  h.setEng e _ (Engine.Inv.initialised hr) (fun x => by cases x <;> rfl) (fun x => by cases x <;> rfl)

/-- DMA_START's effect is one change of its engine, and a mark of `Faults` (R131, R152). -/
theorem State.trigger_setRun (s : State) (e : Eng) (y : Chan) :
    (s.trigger e y).setRun e =
      ({ s with faults := (s.trigger e y).faults } : State).setEng e
        { (s.eng e).setCh y ((s.eng e).ch y).triggered with run := true } := by
  cases e <;> rfl

theorem State.Inv.startEngine {s : State} (h : s.Inv) {e : Eng} (hr : (s.eng e).run = false)
    (hi : (s.eng e).inited = true) : ((s.trigger e .a).setRun e).Inv := by
  obtain ⟨-, -, -, -, hS, -⟩ := (Params.legal_iff _).mp h.legal
  rw [State.trigger_setRun]
  refine (h.withFaults _).setEng_of_buf e (Engine.Inv.started hS (h.eng e) hr hi) fun x => ?_
  cases e <;> cases x <;> rfl

/-- A change of one channel that keeps its engine's invariant keeps the block's. -/
theorem State.Inv.setCh {s : State} (h : s.Inv) (e : Eng) (x : Chan) (c : Channel)
    (hg : ((s.eng e).setCh x c).Inv s.par.bufLen) : (s.setEng e ((s.eng e).setCh x c)).Inv :=
  h.setEng_of_buf e hg fun y => Engine.buf_setCh _ x y c

/-- What BUF_WRITE stores fits its buffer (R39, R135). -/
theorem State.Inv.bufWrite {s : State} (h : s.Inv) (e : Eng) (x : Chan) {i : Nat} (hi : i < bufSize s.par e) :
    (s.setEng e ((s.eng e).setBuf x (((s.eng e).buf x).write i (s.bufOperand e)))).Inv := by
  refine h.setBuf e x _ (Memory.write_wf (h.mem.bufWf e x) i _) (Memory.write_fits (h.bufFits e x) hi ?_)
  cases e with
  | out => exact s.data.isLt
  | cap => exact sampleOf_lt _ _

theorem State.Inv.writeSide {s : State} (h : s.Inv) : s.writeSide.Inv := h.withFaults _

theorem State.Inv.readSide {s : State} (h : s.Inv) : s.readSide.Inv := h.withFaults _

/-- RB_STORE writes a sample below the wrap point (R106). -/
theorem State.Inv.store {s : State} (h : s.Inv) {j : Nat} (hj : j < s.par.capacity - s.wr) :
    ({ s.writeSide with ring := s.ring.write (s.wr + j) (sampleOf s.par s.data) } : State).Inv :=
  h.writeSide.withRing _ (Memory.write_wf h.mem.ringWf _ _)
    (Memory.write_fits h.mem.ringFits (Nat.add_lt_of_lt_sub' hj) (sampleOf_lt _ _))

/-- RB_ADVANCE_WRITE sets OVERRUN only under OVERRUN_DETECT, and takes `wr` modulo the capacity (R35, R107). -/
theorem State.Inv.advance {s : State} (h : s.Inv) (n : Nat) : ((s.writeSide.noteOverrun n).advanceWr n).Inv := by
  have hov : s.par.overrunDetect = false → (s.writeSide.noteOverrun n).overrun = false := fun hd => by
    simp [h.overrun hd, hd]
  exact (h.writeSide.withStreams _ _ hov _ _ _ _).withCursors _ _ _ (Nat.mod_lt _ h.capacity_pos) h.rd

/-- Whatever a command's own effect is, it keeps the invariant. -/
theorem Effect.inv {s u : State} {i : Instr} {c : Status} (h : s.Inv) (he : Effect s i c u) : u.Inv := by
  cases he with
  | none => exact h
  | clear m =>
    exact h.withStreams _ _ (fun hd => by simp [h.overrun hd]) s.serialOut s.sampler s.busData s.fresh
  | storeRefused => exact h.writeSide
  | store j hj => exact h.store hj
  | advance n => exact h.advance n.toNat
  | read => exact h.readSide.afterRingRead
  | init e hr => exact h.initEngine hr
  | start e hr hi => exact h.startEngine hr hi
  | arm e x len hi ha => exact h.setCh e x _ ((h.eng e).setCh x _ rfl rfl (.inr ⟨rfl, hi, ha⟩))
  | ack e x => exact h.setCh e x _ ((h.eng e).setCh x _ rfl rfl (.inl rfl))
  | bufWrite e x i ha hi => exact h.bufWrite e x hi
  | feedRefused => exact h.readSide

/-- A context that waits keeps its status code (R177). -/
theorem State.Inv.hold {s : State} (h : s.Inv) (x : Chan) : (s.hold x).Inv := h.setPort _ _ (h.port_stat s.cur)

/-- FEED starts with its counts in range (R177). -/
theorem State.Inv.startFeed {s : State} (h : s.Inv) (x : Chan) : (s.startFeed x).Inv := by
  obtain ⟨-, -, -, -, hS, -⟩ := (Params.legal_iff _).mp h.legal
  exact h.withFeeder _ (fun _ => h.cur) (Nat.min_le_left _ _) (fun _ => hS)

theorem exec_keeps_inv {i : Instr} {s t : State} (h : s.Inv) (ht : exec i s = .next t) : t.Inv := by
  rcases exec_cases ht with ⟨c, u, r, r2, he, rfl, -⟩ | ⟨x, -, -, rfl⟩ | ⟨x, -, -, -, rfl⟩
  · exact (he.inv h).completeOn _ _ _ _
  · exact h.readSide.hold x
  · exact h.readSide.startFeed x

theorem State.Inv.issued {s : State} (h : s.Inv) {p : Nat} (hc : s.canIssue p = true) (data : Option Word) (w : Word) :
    (s.issued p data w).Inv :=
  (h.setPort p { s.port p with cmd := w, data := data.getD (s.port p).data } (h.port_stat p)).withCur p
    (h.lt_nports (State.canIssue_lt hc))

/-- A port that is not there is ready, so what holds is a port of the block. -/
theorem State.lt_length_of_holding {s : State} {p : Nat} {x : Chan} (hh : (s.port p).issuer = .holding x) :
    p < s.ports.length := by
  by_contra hp
  rw [State.port, List.getD_eq_default _ _ (Nat.le_of_not_lt hp)] at hh
  cases hh

theorem State.Inv.released {s : State} (h : s.Inv) {p : Nat} {x : Chan} (hh : (s.port p).issuer = .holding x) :
    (s.released p).Inv :=
  (h.setPort p { s.port p with issuer := .ready } (h.port_stat p)).withCur p (h.lt_nports (State.lt_length_of_holding hh))

/-! ### The feeder keeps the invariant -/

theorem State.Inv.afterFeedRead {s : State} (h : s.Inv) : s.afterFeedRead.Inv := by
  unfold State.afterFeedRead
  split
  · exact h.afterRingRead
  · exact h

/-- An element step of FEED writes a frame inside its buffer. The feeder it leaves may be any whose counts are in range: the step
that ends the FEED has counted to `S`, and only its end makes the feeder idle (R178, R179). -/
theorem State.Inv.feedElement {s : State} (h : s.Inv) (hb : s.feeder.busy = true) {f : Feeder}
    (hf : ({ s with feeder := f } : State).FeedInv) : ({ s.feedElement with feeder := f } : State).Inv := by
  have hset := h.afterFeedRead.setBuf .out s.feeder.ch
    (writeFrame (s.outEng.buf s.feeder.ch) s.feeder.i s.feedFrame) (writeFrame_wf (h.mem.bufWf .out _) _ _)
    (by simpa [bufSize] using writeFrame_fits (h.mem.outFits _) (h.feed.done hb) _)
  have hfeed := hset.withFeeder f (by simpa using hf.port) (by simpa using hf.count) (by simpa using hf.done)
  simpa [State.setEng, State.eng, State.feedElement] using hfeed

/-- The end of FEED makes the feeder idle, marks STARVED, and completes the command (R179). -/
theorem State.Inv.feedEnd {s : State} (h : ({ s with feeder := { s.feeder with busy := false } } : State).Inv) :
    s.feedEnd.Inv :=
  (h.withStreams _ _ h.overrun s.serialOut s.sampler s.busData s.fresh).completeOn _ .ok _ _

/-- A feeder that is idle is in range where its count of real samples is (R43). -/
theorem State.FeedInv.idle {s : State} (h : s.FeedInv) (i : Nat) :
    ({ s with feeder := { s.feeder with busy := false, i := i } } : State).FeedInv :=
  { port := nofun, count := h.count, done := nofun }

theorem State.Inv.feedAbort {s : State} (h : s.Inv) : s.feedAbort.Inv :=
  (h.withFeeder { s.feeder with busy := false } nofun h.feed.count nofun).completeOn _ .errBusy _ _

theorem feederStep_keeps_inv {s : State} (h : s.Inv) (hb : s.feeder.busy = true) : s.feederStep.Inv := by
  unfold State.feederStep
  split_ifs with ha hl
  · exact h.feedAbort
  · exact (h.feedElement hb (h.feed.idle (s.feeder.i + 1))).feedEnd
  · have hi : s.feeder.i + 1 < s.par.bufLen := Nat.lt_of_le_of_ne (h.feed.done hb) hl
    exact h.feedElement hb (f := { s.feeder with i := s.feeder.i + 1 })
      { port := h.feed.port, count := h.feed.count, done := fun _ => hi }

/-! ### The transfer agents keep the invariant -/

/-- An element step of OUT writes no buffer; one of CAP writes only the captured buffer (R150, R151). -/
theorem element_buf (s : State) (e : Eng) (x y : Chan) :
    ((s.element e x).eng e).buf y = if e = .cap ∧ y = x then s.captured x else (s.eng e).buf y := by
  cases e with
  | out => exact ((advancePos_spec _ .out x).2.1 y).trans (by simp [State.eng])
  | cap =>
    refine ((advancePos_spec _ .cap x).2.1 y).trans ?_
    rcases eq_or_eq_other x y with rfl | rfl
    · simp [State.eng]
    · simp [State.eng, other_ne]

/-- A sample the sampler gives is of `W_IN` bits (R45, R151). -/
theorem State.nextSample_lt (s : State) : s.nextSample.toNat < 2 ^ s.par.wIn := by
  unfold State.nextSample
  split <;> exact sampleOf_lt _ _

/-- A captured buffer is canonical and within its size and width: the position is inside the buffer (R39, R151). -/
theorem State.Inv.captured {s : State} (h : s.Inv) {x : Chan} (hx : (s.capEng.ch x).active = true) :
    (s.captured x).wf = true ∧ (s.captured x).fits (bufSize s.par .cap) s.par.wIn = true := by
  obtain ⟨-, -, hpos, -⟩ := h.capEng.of_active hx
  unfold State.captured
  dsimp only
  split
  · exact ⟨Memory.write_wf (h.mem.bufWf .cap x) _ _, Memory.write_fits (h.mem.capFits x) hpos s.nextSample_lt⟩
  · exact ⟨h.mem.bufWf .cap x, h.mem.capFits x⟩

/-- The fields no element step changes (R150, R151). -/
theorem element_kept (s : State) (e : Eng) (x : Chan) :
    let t := s.element e x
    t.par = s.par ∧ t.ports = s.ports ∧ t.ring = s.ring ∧ t.wr = s.wr ∧ t.rd = s.rd ∧ t.starved = s.starved ∧
      t.overrun = s.overrun ∧ t.feeder = s.feeder ∧ t.cur = s.cur ∧ t.agenda = s.agenda ∧ t.busData = s.busData := by
  cases e <;> simp [State.element, State.outElement, State.capElement]

/-- An element step changes its engine, `Faults`, and what it sends or takes (R150, R151). -/
theorem element_eq_setEng (s : State) (e : Eng) (x : Chan) :
    s.element e x =
      { s.setEng e ((s.element e x).eng e) with
        faults := (s.element e x).faults
        serialOut := (s.element e x).serialOut
        sampler := (s.element e x).sampler
        fresh := (s.element e x).fresh } := by
  have hother := (element_spec s e x).2
  have hkept := element_kept s e x
  rw [State.mk.injEq]
  cases e with
  | out => simpa [State.eng, hkept] using hother .cap (by decide)
  | cap => simpa [State.eng, hkept] using hother .out (by decide)

theorem element_keeps_inv {s : State} (h : s.Inv) {e : Eng} {x : Chan} (hr : (s.eng e).run = true)
    (hx : (s.eng e).activeCh = some x) : (s.element e x).Inv := by
  obtain ⟨-, -, -, -, hS, -⟩ := (Params.legal_iff _).mp h.legal
  have hact := (Engine.activeCh_eq_some.mp hx).1
  have hset : (s.setEng e ((s.element e x).eng e)).Inv := by
    refine h.setEng e _ (Engine.Inv.element hS (h.eng e) hr hx) (fun y => ?_) (fun y => ?_) <;> rw [element_buf] <;>
      split_ifs with hy
    · obtain ⟨rfl, rfl⟩ := hy
      exact (h.captured hact).1
    · exact h.mem.bufWf e y
    · obtain ⟨rfl, rfl⟩ := hy
      exact (h.captured hact).2
    · exact h.bufFits e y
  rw [element_eq_setEng]
  exact (hset.withFaults (s.element e x).faults).withStreams (s.setEng e _).starved _ hset.overrun
    (s.element e x).serialOut (s.element e x).sampler (s.setEng e _).busData (s.element e x).fresh

/-! ### Every step -/

/-- Every move keeps the invariant. -/
theorem performMove_keeps_inv {m : Move} {s t : State} (h : s.Inv) (ht : performMove m s = .next t) : t.Inv := by
  cases performMove_cases ht with
  | passed => exact h
  | exec p data w i hc ht => exact exec_keeps_inv (h.issued hc data w) ht
  | illegal p data w hc => exact (h.issued hc data w).completeOn p .errIllegal 0 0
  | stuck p hc => exact h.setPort p _ (h.port_stat p)
  | data p v hc => exact h.setPort p _ (h.port_stat p)
  | busRead v => exact h.withStreams s.starved s.overrun h.overrun s.serialOut s.sampler v s.fresh
  | resume p x hh hb ht => exact exec_keeps_inv (h.released hh) ht
  | feeder hm hb => exact feederStep_keeps_inv h hb
  | element e x hm hr hx => exact element_keeps_inv h hr hx

/-- Settles O43: taking the next move keeps the invariant, and so does performing it. -/
theorem stepKeepsInvariant : Obligations.StepKeepsInvariant :=
  fun _ _ h ht => performMove_keeps_inv h.moveTaken ht

end Sys2Proof.Machine
end

section
/-!
SUPPORT. The proofs of the state family (10_state), second part: what a command and a step do to one engine (O32, O33, O48, O51),
what they do to the other fields (O47, O49, O50, O53), reset (O41), and a ring read (O18).
-/
namespace Sys2Proof.Machine

open Sys2Proof

/-! ### What a command does to an engine -/

/-- What a command does to engine `e`, the engine being `g` before it. -/
inductive EngineEffect (e : Eng) (g : Engine) : Instr → Engine → Prop where
  /-- A command of the other engine, of none, or a refused one. -/
  | kept (i : Instr) : EngineEffect e g i g
  /-- DMA_INIT of an engine that does not run (R130). -/
  | init (hr : g.run = false) : EngineEffect e g (.dmaInit e) g.initialised
  /-- DMA_START of an engine that does not run (R131). -/
  | start (hr : g.run = false) :
      EngineEffect e g (.dmaStart e) { g.setCh .a (g.ch .a).triggered with run := true }
  /-- DMA_ARM (R132). -/
  | arm (x : Chan) (len : BitVec 16) : EngineEffect e g (.dmaArm e x len) (g.setCh x { g.ch x with armed := true })
  /-- DMA_ACK (R133). -/
  | ack (x : Chan) : EngineEffect e g (.dmaAck e x) (g.setCh x { g.ch x with pend := false })
  /-- BUF_WRITE of a buffer that is not in flight (R135). -/
  | bufWrite (x : Chan) (i : BitVec 16) (m : Memory) (ha : (g.ch x).active = false) :
      EngineEffect e g (.bufWrite e x i) (g.setBuf x m)

/-- A change of one engine leaves the other as it was. -/
theorem EngineEffect.setEng {s : State} {e : Eng} {i : Instr} {g : Engine} (h : EngineEffect e (s.eng e) i g) (f : Eng) :
    EngineEffect f (s.eng f) i ((s.setEng e g).eng f) := by
  by_cases hf : f = e
  · subst hf; rwa [State.eng_setEng_self]
  · rw [State.eng_setEng_ne s hf]; exact .kept i

@[simp] theorem State.eng_afterRingRead (s : State) (e : Eng) : s.afterRingRead.eng e = s.eng e := by
  cases e <;> simp [State.eng]

theorem Effect.engine {s u : State} {i : Instr} {c : Status} (h : Effect s i c u) (e : Eng) :
    EngineEffect e (s.eng e) i (u.eng e) := by
  cases h with
  | none => exact .kept i
  | clear => exact .kept _
  | storeRefused => exact .kept _
  | store => exact .kept _
  | advance => exact .kept _
  | read => rw [State.eng_afterRingRead]; exact .kept _
  | init f hr => exact EngineEffect.setEng (.init hr) e
  | start f hr =>
    rw [State.trigger_setRun]
    exact EngineEffect.setEng (s := { s with faults := (s.trigger f .a).faults }) (.start hr) e
  | arm f x len => exact EngineEffect.setEng (.arm x len) e
  | ack f x => exact EngineEffect.setEng (.ack x) e
  | bufWrite f x k ha => exact EngineEffect.setEng (.bufWrite x k _ ha) e
  | feedRefused => exact .kept _

theorem exec_engine {i : Instr} {s t : State} (h : exec i s = .next t) (e : Eng) :
    EngineEffect e (s.eng e) i (t.eng e) := by
  rcases exec_cases h with ⟨c, u, r, r2, he, rfl, -⟩ | ⟨x, rfl, -, rfl⟩ | ⟨x, rfl, -, -, rfl⟩
  · rw [State.eng_completeOn]; exact he.engine e
  · exact .kept _
  · exact .kept _

/-- INIT and RUN are cleared by no command (R37). -/
theorem EngineEffect.inited_run {e : Eng} {i : Instr} {g k : Engine} (h : EngineEffect e g i k) :
    (g.inited = true → k.inited = true) ∧ (g.run = true → k.run = true) := by
  cases h with
  | init hr => exact ⟨fun _ => rfl, fun h => h⟩
  | start hr => exact ⟨fun h => h, fun _ => rfl⟩
  | _ => simp

theorem Engine.ch_setCh (g : Engine) (x y : Chan) (c : Channel) :
    (g.setCh x c).ch y = if y = x then c else g.ch y := by
  split
  · subst y; exact g.ch_setCh_self x c
  · exact g.ch_setCh_ne (by assumption) c

/-- No command starts or ends a transfer of a running engine, nor sets a completion signal of it (R130, R131, R154). -/
theorem EngineEffect.running {e : Eng} {i : Instr} {g k : Engine} (h : EngineEffect e g i k) (hr : g.run = true) (y : Chan) :
    (k.ch y).active = (g.ch y).active ∧ ((k.ch y).pend = true → (g.ch y).pend = true) := by
  cases h with
  | kept => exact ⟨rfl, id⟩
  | init hr' => simp [hr'] at hr
  | start hr' => simp [hr'] at hr
  | arm x len => rw [Engine.ch_setCh]; split_ifs with hy <;> simp [hy]
  | ack x => rw [Engine.ch_setCh]; split_ifs with hy <;> simp [hy]
  | bufWrite => simp

/-- No command writes a buffer of a running engine whose channel is active (R41, R135, R155). -/
theorem EngineEffect.buf_of_active {e : Eng} {i : Instr} {g k : Engine} (h : EngineEffect e g i k) (hr : g.run = true)
    {x : Chan} (hx : (g.ch x).active = true) : k.buf x = g.buf x := by
  cases h with
  | kept => rfl
  | init hr' => simp [hr'] at hr
  | start hr' => simp [hr'] at hr
  | arm y len => exact g.buf_setCh y x _
  | ack y => exact g.buf_setCh y x _
  | bufWrite y k m ha =>
    refine g.buf_setBuf_ne (fun hxy => ?_) m
    subst hxy
    simp [hx] at ha

/-- A completion signal is cleared only by DMA_ACK of its channel, or by DMA_INIT of an engine that does not run; an interrupt
enable by no command (R130, R133, R207). -/
theorem EngineEffect.pend_ie {e : Eng} {i : Instr} {g k : Engine} (h : EngineEffect e g i k) (x : Chan) :
    (i ≠ .dmaAck e x → (i ≠ .dmaInit e ∨ g.run = true) → (g.ch x).pend = true → (k.ch x).pend = true) ∧
      ((g.ch x).ie = true → (k.ch x).ie = true) := by
  cases h with
  | kept => simp
  | init hr => exact ⟨fun _ h => by simp [hr] at h, fun _ => by cases x <;> rfl⟩
  | start hr => cases x <;> exact ⟨fun _ _ h => h, id⟩
  | arm y len => rw [Engine.ch_setCh]; split_ifs with hy <;> simp [hy]
  | ack y =>
    rw [Engine.ch_setCh]
    split_ifs with hy
    · subst hy; simp
    · simp
  | bufWrite => simp

/-! ### What a step does to an engine -/

/-- What a move does to engine `e`: a command's effect; a step of the feeder, which writes at most a buffer; or an element step of
its transfer agent. -/
theorem performMove_engine {m : Move} {s t : State} (h : performMove m s = .next t) (e : Eng) :
    (∃ i, EngineEffect e (s.eng e) i (t.eng e)) ∨
      ((t.eng e).run = (s.eng e).run ∧ (t.eng e).inited = (s.eng e).inited ∧ ∀ y, (t.eng e).ch y = (s.eng e).ch y) ∨
      ∃ x, (s.eng e).activeCh = some x ∧ ElementCounted e x s t := by
  have same {t' : State} (ht : t'.eng e = s.eng e) : ∃ i, EngineEffect e (s.eng e) i (t'.eng e) :=
    ⟨.nop, ht ▸ .kept .nop⟩
  cases performMove_cases h with
  | passed => exact .inl (same rfl)
  | exec p data w i hc ht => exact .inl ⟨i, s.eng_issued p data w e ▸ exec_engine ht e⟩
  | illegal p data w hc => exact .inl (same (by simp))
  | stuck p hc => exact .inl (same rfl)
  | data p v hc => exact .inl (same rfl)
  | busRead v => exact .inl (same rfl)
  | resume p x hh hb ht => exact .inl ⟨_, s.eng_released p e ▸ exec_engine ht e⟩
  | feeder hm hb =>
    obtain ⟨hcap, hrun, hinit, hch⟩ := feederStep_engine s
    cases e with
    | out => exact .inr (.inl ⟨hrun, hinit, hch⟩)
    | cap => exact .inl (same hcap)
  | element f x hm hr hx =>
    obtain ⟨hcount, hother⟩ := element_spec s f x
    by_cases he : e = f
    · subst he; exact .inr (.inr ⟨x, hx, hcount⟩)
    · exact .inl (same (hother e he))

/-- Settles O48: DMA_INIT and DMA_START are the only moves that write INIT or RUN, and they set them. -/
theorem enginesNeverStop : Obligations.EnginesNeverStop := by
  intro s t e h
  rw [← s.eng_moveTaken e]
  rcases performMove_engine h e with ⟨i, he⟩ | ⟨hrun, hinit, -⟩ | ⟨x, -, hinit, hrun, -⟩
  · exact he.inited_run
  · rw [hrun, hinit]; exact ⟨id, id⟩
  · rw [hrun, hinit]; exact ⟨id, id⟩

/-- The element counted by an active channel is its last, and the chain goes on to the other one; or it is not, and the channel
stays the active one (R152, R154). -/
theorem ElementCounted.alternates {e : Eng} {x : Chan} {s t : State} (h : ElementCounted e x s t)
    (hx : (s.eng e).activeCh = some x) :
    ((t.eng e).activeCh = some x ∧ ∀ y, ((t.eng e).ch y).pend = true → ((s.eng e).ch y).pend = true) ∨
      ((t.eng e).activeCh = some (other x) ∧ ((s.eng e).ch x).pos + 1 = s.par.bufLen ∧ ((t.eng e).ch x).pend = true ∧
        ((t.eng e).ch (other x)).pos = 0 ∧
        (((t.eng e).ch (other x)).pend = true → ((s.eng e).ch (other x)).pend = true)) := by
  obtain ⟨-, -, hmore, hlast⟩ := h
  obtain ⟨hact, hidle⟩ := Engine.activeCh_eq_some.mp hx
  rw [Engine.activeCh_eq_some, Engine.activeCh_eq_some, other_other]
  by_cases hl : ((s.eng e).ch x).pos + 1 = s.par.bufLen
  · obtain ⟨hself, hother, -⟩ := hlast hl
    rw [Triggered] at hother
    exact .inr (by simp [hself, hother, hl])
  · obtain ⟨hself, hother, -⟩ := hmore hl
    refine .inl ⟨by simp [hself, hother, hact, hidle], fun y => ?_⟩
    rcases eq_or_eq_other x y with rfl | rfl
    · simp [hself]
    · simp [hother]

/-- Settles O32: a running engine's channels are written by an element step, which alternates, and by commands and the feeder,
which neither end its transfer nor set a completion signal. -/
theorem completionsAlternate : Obligations.CompletionsAlternate := by
  intro s t e x _ hr hx h
  rw [← s.eng_moveTaken e] at hr hx ⊢
  rw [← s.moveTaken_par]
  rcases performMove_engine h e with ⟨i, he⟩ | ⟨-, -, hch⟩ | ⟨y, hy, hcount⟩
  · have hrun := he.running hr
    exact .inl ⟨by simpa [Engine.activeCh_eq_some, hrun] using hx, fun y => (hrun y).2⟩
  · exact .inl ⟨by simpa [Engine.activeCh_eq_some, hch] using hx, fun y => by rw [hch y]; exact id⟩
  · obtain rfl : y = x := Option.some.inj (hy.symm.trans hx)
    exact hcount.alternates hx

/-- A step of the feeder writes no buffer in flight: FEED ends there instead (R155, R179). -/
theorem feederStep_buf_of_active {s : State} {x : Chan} (hx : (s.outEng.ch x).active = true) :
    s.feederStep.outEng.buf x = s.outEng.buf x := by
  cases ha : (s.outEng.ch s.feeder.ch).active with
  | true => simp [State.feederStep, ha, State.feedAbort]
  | false =>
    rw [(feederStep_of_not_active ha).1, State.feedElement_outEng]
    refine Engine.buf_setBuf_ne _ (fun hxf => ?_) _
    rw [← hxf, hx] at ha
    cases ha

/-- Settles O33: a channel in flight is one of a running engine, whose buffer neither a command nor the feeder writes. -/
theorem inFlightBufferUntouched : Obligations.InFlightBufferUntouched := by
  rintro s t e x h hx (⟨i, ht⟩ | ⟨hb, ht⟩)
  · exact (exec_engine ht e).buf_of_active ((h.eng e).of_active hx).1 hx
  · rw [performMove_feeder hb] at ht
    cases ht
    cases e with
    | out => exact feederStep_buf_of_active hx
    | cap => exact congrArg (Engine.buf · x) (feederStep_engine s).1

/-! ### The sticky bits -/

/-- STARVED and OVERRUN are cleared by no command but BLK_CLEAR (R35, R172). -/
theorem Effect.sticky {s u : State} {i : Instr} {c : Status} (h : Effect s i c u) (hi : ∀ m, i ≠ .blkClear m) :
    (s.starved = true → u.starved = true) ∧ (s.overrun = true → u.overrun = true) := by
  cases h with
  | clear m => exact absurd rfl (hi m)
  | advance n => exact ⟨id, fun h => by simp [h]⟩
  | _ => simp

theorem exec_sticky {i : Instr} {s t : State} (h : exec i s = .next t) (hi : ∀ m, i ≠ .blkClear m) :
    (s.starved = true → t.starved = true) ∧ (s.overrun = true → t.overrun = true) := by
  rcases exec_cases h with ⟨c, u, r, r2, he, rfl, -⟩ | ⟨x, -, -, rfl⟩ | ⟨x, -, -, -, rfl⟩
  · exact he.sticky hi
  · exact ⟨id, id⟩
  · exact ⟨id, id⟩

/-- Settles O51: by what a command does to the sticky bits and to each engine. -/
theorem flagsClearedByTheirCommand : Obligations.FlagsClearedByTheirCommand :=
  fun _ _ _ h => ⟨exec_sticky h, fun e x => (exec_engine h e).pend_ie x⟩

/-! ### The cursors -/

/-- The write cursor is moved by no command but RB_ADVANCE_WRITE, the read cursor by none but RB_READ_ONE (R33). -/
theorem Effect.cursors {s u : State} {i : Instr} {c : Status} (h : Effect s i c u) :
    ((∀ n, i ≠ .rbAdvanceWrite n) → u.wr = s.wr) ∧ (i ≠ .rbReadOne → u.rd = s.rd) := by
  cases h with
  | advance n => exact ⟨fun hi => absurd rfl (hi n), fun _ => rfl⟩
  | read => exact ⟨fun _ => by simp, fun hi => absurd rfl hi⟩
  | _ => simp

theorem exec_cursors {i : Instr} {s t : State} (h : exec i s = .next t) :
    ((∀ n, i ≠ .rbAdvanceWrite n) → t.wr = s.wr) ∧ (i ≠ .rbReadOne → t.rd = s.rd) := by
  rcases exec_cases h with ⟨c, u, r, r2, he, rfl, -⟩ | ⟨x, -, -, rfl⟩ | ⟨x, -, -, -, rfl⟩
  · exact he.cursors
  · exact ⟨fun _ => rfl, fun _ => rfl⟩
  · exact ⟨fun _ => rfl, fun _ => rfl⟩

/-- The feeder reads the ring, and moves only the read cursor (R178). -/
theorem feederStep_wr (s : State) : s.feederStep.wr = s.wr := by
  unfold State.feederStep
  split_ifs <;> simp [State.feedAbort, State.feedEnd, State.feedElement]

/-- A move of the feeder is passed over, or is its step (R178). -/
theorem performMove_feeder_cases {s t : State} (h : performMove .feeder s = .next t) : t = s ∨ t = s.feederStep := by
  simp only [performMove, feederMove] at h
  split at h
  · cases h; exact .inr rfl
  · cases h; exact .inl rfl

/-- A move of a transfer agent is passed over, or is an element step of its engine (R150, R151). -/
theorem performMove_transfer_cases {e : Eng} {s t : State} (h : performMove (.transfer e) s = .next t) :
    t = s ∨ ∃ x, t = s.element e x := by
  simp only [performMove, transferMove, transferStep] at h
  split at h
  · split at h
    · cases h; exact .inr ⟨_, rfl⟩
    · cases h
  · cases h; exact .inl rfl

/-- Settles O47: by the frames of the commands, of the feeder, and of the element step. -/
theorem cursorsHaveOneMover : Obligations.CursorsHaveOneMover := by
  refine fun s t => ⟨fun i h => (exec_cursors h).1, fun i h => (exec_cursors h).2, fun h => ?_, fun e h => ?_⟩
  · rcases performMove_feeder_cases h with rfl | rfl
    · rfl
    · exact feederStep_wr s
  · rcases performMove_transfer_cases h with rfl | ⟨x, rfl⟩
    · exact ⟨rfl, rfl⟩
    · obtain ⟨-, -, -, hwr, hrd, -⟩ := element_kept s e x
      exact ⟨hwr, hrd⟩

/-! ### The model faults -/

/-- No mark of `Faults` is removed between the two states (R46). -/
def FaultsKept (s t : State) : Prop :=
  (s.faults.missedRearm = true → t.faults.missedRearm = true) ∧
    (s.faults.spscViolation = true → t.faults.spscViolation = true)

theorem FaultsKept.of_eq {s t : State} (h : t.faults = s.faults) : FaultsKept s t := by
  rw [FaultsKept, h]; exact ⟨id, id⟩

theorem FaultsKept.writeSide (s : State) : FaultsKept s s.writeSide := ⟨id, fun h => by simp [h]⟩

theorem FaultsKept.readSide (s : State) : FaultsKept s s.readSide := ⟨id, fun h => by simp [h]⟩

/-- A trigger only adds a mark (R153). -/
theorem FaultsKept.trigger (s : State) (e : Eng) (y : Chan) : FaultsKept s (s.trigger e y) :=
  ⟨fun h => by simp [h], fun h => by simpa using h⟩

/-- The commands that write `Faults` add a mark: SPSC_VIOLATION the ring commands, MISSED_REARM DMA_START (R100, R131). -/
theorem Effect.faultsKept {s u : State} {i : Instr} {c : Status} (h : Effect s i c u) : FaultsKept s u := by
  cases h with
  | storeRefused => exact .writeSide s
  | store => exact FaultsKept.writeSide s
  | advance => exact FaultsKept.writeSide s
  | read => rw [FaultsKept, State.afterRingRead_faults]; exact FaultsKept.readSide s
  | feedRefused => exact .readSide s
  | start e => rw [FaultsKept, State.setRun_faults]; exact FaultsKept.trigger s e .a
  | _ => exact .of_eq (by simp)

theorem exec_faultsKept {i : Instr} {s t : State} (h : exec i s = .next t) : FaultsKept s t := by
  rcases exec_cases h with ⟨c, u, r, r2, he, rfl, -⟩ | ⟨x, -, -, rfl⟩ | ⟨x, -, -, -, rfl⟩
  · exact he.faultsKept
  · exact FaultsKept.readSide s
  · exact FaultsKept.readSide s

/-- An element step adds MISSED_REARM, or no mark (R153). -/
theorem element_faultsKept (s : State) (e : Eng) (x : Chan) : FaultsKept s (s.element e x) := by
  obtain ⟨⟨-, -, hmore, hlast⟩, -⟩ := element_spec s e x
  by_cases hl : ((s.eng e).ch x).pos + 1 = s.par.bufLen
  · obtain ⟨-, -, hspsc, hmissed⟩ := hlast hl
    exact ⟨fun h => hmissed.mpr (.inl h), fun h => hspsc.trans h⟩
  · obtain ⟨-, -, hsame⟩ := hmore hl
    exact .of_eq hsame

theorem performMove_faultsKept {m : Move} {s t : State} (h : performMove m s = .next t) : FaultsKept s t := by
  cases performMove_cases h with
  | passed => exact .of_eq rfl
  | exec p data w i hc ht => exact exec_faultsKept (s := s.issued p data w) ht
  | illegal => exact .of_eq rfl
  | stuck => exact .of_eq rfl
  | data => exact .of_eq rfl
  | busRead => exact .of_eq rfl
  | resume p x hh hb ht => exact exec_faultsKept (s := s.released p) ht
  | feeder => exact .of_eq (feederStep_faults s)
  | element e x => exact element_faultsKept s e x

/-- Settles O49: every move keeps each mark. -/
theorem faultsNeverRemoved : Obligations.FaultsNeverRemoved := by
  intro s t h
  rw [← s.moveTaken_faults]
  exact performMove_faultsKept h

/-! ### The serial output -/

/-- An element step of CAP sends nothing (R151). -/
theorem capElement_serialOut (s : State) (x : Chan) : (s.capElement x).serialOut = s.serialOut := by
  simp [State.capElement]

/-- Settles O50: only engine OUT's element step sends a frame. -/
theorem serialOutAppendOnly : Obligations.SerialOutAppendOnly := by
  intro s t h
  rw [← s.moveTaken_serialOut]
  cases step_cases h with
  | exec p data w i hc ht => exact .inl (exec_kept ht).2.1
  | resume p x hh hb ht => exact .inl (exec_kept ht).2.1
  | feeder => exact .inl (feederStep_kept _).2
  | element e x hm =>
    cases e with
    | out => exact .inr ⟨hm, _, (outElement_emits _ x).1⟩
    | cap => exact .inl (capElement_serialOut _ x)
  | _ => exact .inl rfl

/-! ### The ports -/

theorem State.port_setPort (s : State) (p k : Nat) (q : Port) :
    (s.setPort p q).port k = if k = p ∧ p < s.ports.length then q else s.port k := by
  split_ifs with h
  · obtain ⟨rfl, hk⟩ := h
    exact State.port_setPort_self hk q
  · by_cases hk : k = p
    · have hlen : s.ports.length ≤ p := Nat.le_of_not_lt fun hp => h ⟨hk, hp⟩
      exact State.port_congr (List.set_eq_of_length_le hlen) k
    · exact State.port_setPort_ne hk q

/-- A change of one port that keeps its CMD and DATA keeps every port's, and the other ports altogether. -/
theorem State.setPort_kept {s : State} {p : Nat} {q : Port} (hc : q.cmd = (s.port p).cmd) (hd : q.data = (s.port p).data)
    (k : Nat) : ((s.setPort p q).port k).cmd = (s.port k).cmd ∧ ((s.setPort p q).port k).data = (s.port k).data ∧
      (k ≠ p → (s.setPort p q).port k = s.port k) := by
  rw [State.port_setPort]
  split_ifs with h
  · obtain ⟨rfl, -⟩ := h
    exact ⟨hc, hd, fun hk => absurd rfl hk⟩
  · exact ⟨rfl, rfl, fun _ => rfl⟩

/-- Settles O53: a command completes on its own port, or marks its context as waiting there, or changes no port. -/
theorem commandKeepsOtherPorts : Obligations.CommandKeepsOtherPorts := by
  intro i s t p h
  rcases exec_cases h with ⟨c, u, r, r2, he, rfl, -⟩ | ⟨x, -, -, rfl⟩ | ⟨x, -, -, -, rfl⟩
  · rw [← State.port_congr (effect_kept he).2.1]
    exact State.setPort_kept (q := { u.port s.cur with res := r, res2 := r2, stat := statusCode c }) rfl rfl p
  · exact State.setPort_kept (s := s.readSide) (q := { s.port s.cur with issuer := .holding x }) rfl rfl p
  · exact ⟨rfl, rfl, fun _ => rfl⟩

/-! ### Reset -/

/-- Every port, there or not, reads as a port at reset (R31, R47). -/
theorem State.port_resetWith (p : Params) (k : Nat) : (State.resetWith p).port k = Port.reset := by
  simp only [State.port, State.resetWith, List.getD, List.getElem?_replicate]
  split <;> rfl

/-- Settles O41: each field of the reset state. -/
theorem resetLeavesZero : Obligations.ResetLeavesZero := by
  refine ⟨rfl, fun p => ⟨rfl, List.length_replicate, fun k => ?_, fun _ => rfl, rfl, rfl, rfl, rfl, fun e => ?_, rfl, rfl,
    rfl⟩⟩
  · rw [State.port_resetWith]
    exact ⟨rfl, rfl, rfl, rfl, rfl⟩
  · cases e <;> exact ⟨rfl, rfl, fun x => by cases x <;> exact ⟨rfl, fun _ => rfl, rfl⟩⟩

/-! ### The ring as a queue -/

/-- The read cursor moved on leaves one sample fewer (R34, R108). -/
theorem State.ringLength_afterRingRead {s : State} (hw : s.wr < s.par.capacity) (hr : s.rd < s.par.capacity)
    (hne : s.rd ≠ s.wr) : s.afterRingRead.ringLength + 1 = s.ringLength := by
  have hrd : (s.rd + 1) % s.par.capacity < s.par.capacity := Nat.mod_lt _ (Nat.zero_lt_of_lt hw)
  rw [State.ringLength_eq (s := s.afterRingRead) (by simpa using hw) (by simpa using hrd), State.ringLength_eq hw hr]
  simp only [State.afterRingRead_par, State.afterRingRead_wr, State.afterRingRead_rd]
  rw [mod_of_lt_two_mul (by omega)]
  split_ifs <;> omega

/-- The unread samples are the one at the read cursor, and those a read leaves (R34, R69). -/
theorem State.unread_eq_cons {s : State} (hw : s.wr < s.par.capacity) (hr : s.rd < s.par.capacity) (hne : s.rd ≠ s.wr) :
    s.unread = s.ring.read s.rd :: s.afterRingRead.unread := by
  rw [State.unread, ← State.ringLength_afterRingRead hw hr hne, List.range_succ_eq_map, List.map_cons, List.map_map,
    Nat.add_zero, Nat.mod_eq_of_lt hr]
  congr 1
  refine List.map_congr_left fun k _ => ?_
  simp [Nat.add_assoc, Nat.add_comm 1 k]

/-- The unread samples are told by the ring and its cursors (R34). -/
theorem State.unread_congr {s t : State} (hp : t.par = s.par) (hm : t.ring = s.ring) (hw : t.wr = s.wr) (hr : t.rd = s.rd) :
    t.unread = s.unread := by
  simp only [State.unread, State.ringLength, hp, hm, hw, hr]

/-- Settles O18: the ring is not empty, so the read takes the sample at the read cursor, which is the oldest unread one. -/
theorem readTakesOldestUnread : Obligations.ReadTakesOldestUnread := by
  intro s v rest hc hw hr hu
  have hne : s.rd ≠ s.wr := fun he => by
    simp [State.unread, (State.ringLength_eq_zero hw hr).mpr he] at hu
  obtain ⟨hv, hrest⟩ := List.cons.inj ((State.unread_eq_cons hw hr hne).symm.trans hu)
  refine ⟨_, exec_rbReadOne s, ?_,
    (State.unread_congr (by simp) (by simp) (by simp) (by simp)).trans hrest⟩
  have hsample : s.ringSample = v := by rw [← hv, State.ringSample, if_neg (by rwa [State.ringEmpty_iff])]
  rw [State.port_completeOn_self (by simpa using hc), hsample]
  rfl

end Sys2Proof.Machine
end

section
/-!
SUPPORT. The proofs of the memory family (20_memory): the host bus reads (O55), writes (O56) and unsupported accesses (O57), and
the byte order of a register (O58).
-/
namespace Sys2Proof.Machine

open Sys2Proof

/-! ### The address map -/

/-- `BASE` is word-aligned (R61). -/
theorem four_dvd_busBase (p : Params) : 4 ∣ busBase p :=
  Dvd.dvd.mul_left (Dvd.dvd.mul_right (by decide) _) _

/-- An address of the window names its port (R61). -/
theorem busPort_portAddress (p : Params) (q : Nat) {off : Nat} (h : off < 0x20) : busPort p (portAddress p q off) = q := by
  unfold busPort portAddress
  omega

/-- An address of the window names its offset (R61). -/
theorem busOffset_portAddress (p : Params) (q : Nat) {off : Nat} (h : off < 0x20) :
    busOffset p (portAddress p q off) = off := by
  unfold busOffset portAddress
  omega

/-- The block accepts a word access at every aligned offset of its ports (R61, R62). -/
theorem busAccepts_portAddress {p : Params} {q off : Nat} (hq : q < p.nports) (ho : off < 0x20) (ha : off % 4 = 0) :
    busAccepts p 4 (portAddress p q off) = true := by
  have hbase := four_dvd_busBase p
  have haligned : portAddress p q off % 4 = 0 := by unfold portAddress; omega
  have hlow : busBase p ≤ portAddress p q off := by unfold portAddress; omega
  have hhigh : portAddress p q off < busBase p + 0x20 * p.nports := by unfold portAddress; omega
  simp [busAccepts, haligned, hlow, hhigh]

/-- The block accepts no access of another width or off the word boundary (R62). -/
theorem busAccepts_eq_false {width addr : Nat} (h : width ≠ 4 ∨ addr % 4 ≠ 0) (p : Params) :
    busAccepts p width addr = false := by
  rcases h with h | h <;> simp [busAccepts, h]

/-! ### What an access does -/

section
variable {s : State} {p width addr : Nat} (hc : s.canIssue p = true)
include hc

theorem performMove_busRead_of_accepts (ha : busAccepts s.par width addr = true) :
    performMove (.busRead p width addr) s = .next { s with busData := s.memRead addr } := by
  simp [performMove, busReadMove, hc, ha]

theorem performMove_busWrite_of_accepts (ha : busAccepts s.par width addr = true) (hp : busPort s.par addr = p) (v : Word) :
    performMove (.busWrite p width addr v) s = memWrite p (busOffset s.par addr) v s := by
  simp [performMove, busWriteMove, hc, ha, hp]

theorem performMove_busRead_of_not_accepts (ha : busAccepts s.par width addr = false) :
    performMove (.busRead p width addr) s = .next (s.stick p) := by
  simp [performMove, busReadMove, hc, ha]

theorem performMove_busWrite_of_not_accepts (ha : busAccepts s.par width addr = false) (v : Word) :
    performMove (.busWrite p width addr v) s = .next (s.stick p) := by
  simp [performMove, busWriteMove, hc, ha]

end

/-- A word write by a context to an offset of its own port (R62). -/
theorem performMove_busWrite_portAddress {s : State} {p off : Nat} (hc : s.canIssue p = true) (hp : p < s.par.nports)
    (ho : off < 0x20) (ha : off % 4 = 0) (v : Word) :
    performMove (.busWrite p 4 (portAddress s.par p off) v) s = memWrite p off v s := by
  rw [performMove_busWrite_of_accepts hc (busAccepts_portAddress hp ho ha) (busPort_portAddress _ _ ho),
    busOffset_portAddress _ _ ho]

/-- A read at an offset of a port reads that port's register (R62). -/
theorem State.memRead_portAddress (s : State) (q : Nat) {off : Nat} (h : off < 0x20) :
    s.memRead (portAddress s.par q off) = (s.port q).readReg off := by
  rw [State.memRead, busPort_portAddress _ _ h, busOffset_portAddress _ _ h]

theorem State.port_stick_self {s : State} {p : Nat} (h : p < s.ports.length) :
    (s.stick p).port p = { s.port p with issuer := .stuck } := State.port_setPort_self h _

theorem State.port_stick_ne {s : State} {p k : Nat} (h : k ≠ p) : (s.stick p).port k = s.port k := State.port_setPort_ne h _

/-- A stuck context can issue nothing (R62). -/
theorem State.canIssue_eq_false_of_stuck {s : State} {p : Nat} (h : (s.port p).issuer = .stuck) : s.canIssue p = false := by
  simp [State.canIssue, h]

/-- Settles O55: the block accepts the read, and the address names the port and the offset. -/
theorem busReadReturnsRegister : Obligations.BusReadReturnsRegister := by
  intro s p q off hc hq ho ha
  exact ⟨_, performMove_busRead_of_accepts hc (busAccepts_portAddress hq ho ha), rfl, State.memRead_portAddress s q ho⟩

/-- Settles O56: the block accepts the write, the address names the context's own port, and the offset says what the write does. -/
theorem busWriteReachesPort : Obligations.BusWriteReachesPort := by
  intro s p off v hc hp ho ha
  rw [performMove_busWrite_portAddress hc hp ho ha]
  refine ⟨?_, ?_, ?_⟩
  · rintro rfl
    rfl
  · rintro rfl
    exact ⟨_, rfl, rfl, State.port_setPort_self (State.canIssue_lt hc) _, fun k hk => State.port_setPort_ne hk _⟩
  · intro h0 h4
    rw [memWrite, if_neg h0, if_neg h4]

/-- Settles O57: the block does not accept the access, so it leaves the context stuck and changes nothing else. -/
theorem unsupportedAccessSticks : Obligations.UnsupportedAccessSticks := by
  intro s p width addr v hc h
  have ha := busAccepts_eq_false h s.par
  have hport := State.port_stick_self (State.canIssue_lt hc)
  exact ⟨s.stick p, performMove_busWrite_of_not_accepts hc ha v, performMove_busRead_of_not_accepts hc ha, rfl, hport,
    fun k hk => State.port_stick_ne hk, State.canIssue_eq_false_of_stuck (by rw [hport])⟩

/-! ### The bytes of a register -/

theorem getLsbD_byteOf (w : Word) (k : Nat) {b : Nat} (h : b < 8) : (byteOf w k).getLsbD b = w.getLsbD (8 * k + b) := by
  simp [byteOf, h]

/-- The bytes of a register, put back in bus order, make it: two neighbouring runs of bits make one run (R64). -/
theorem wordOfBytes_byteOf (w : Word) : wordOfBytes (byteOf w 0) (byteOf w 1) (byteOf w 2) (byteOf w 3) = w := by
  unfold wordOfBytes byteOf
  rw [BitVec.extractLsb'_append_extractLsb'_eq_extractLsb' (show 8 * 3 = 8 * 2 + 8 from rfl),
    BitVec.extractLsb'_append_extractLsb'_eq_extractLsb' (show 8 * 2 = 8 * 1 + 8 from rfl),
    BitVec.extractLsb'_append_extractLsb'_eq_extractLsb' (show 8 * 1 = 8 * 0 + 8 from rfl)]
  exact BitVec.extractLsb'_eq_self

/-- Settles O58: a byte is a run of its register's bits, and the four runs make the register. -/
theorem bytesAreLittleEndian : Obligations.BytesAreLittleEndian :=
  fun w => ⟨wordOfBytes_byteOf w, fun k _ _ hb => getLsbD_byteOf w k hb⟩

end Sys2Proof.Machine
end

section
/-!
SUPPORT. The command word and the opcode map (30_encoding): the fields of a word that a row covers, and the instruction the row builds.
-/
namespace Sys2Proof

/-! ### The rows and the words they cover -/

theorem Row.covers_eq_true {r : Row} {w : Word} : r.covers w = true ↔ w &&& r.mask = r.pat := beq_iff_eq

/-- The row that covers a word decodes it: no other row does (R87). -/
theorem decode_of_covers {r : Row} (hr : r ∈ opcodeTable) {w : Word} (h : r.covers w = true) :
    decode w = .ok (r.build w) := by
  simp only [decode, Row.find_covers opcodeTable_disjoint hr h]

/-- A word no row covers is illegal (R87). -/
theorem decode_of_not_covered {w : Word} (h : ∀ r ∈ opcodeTable, r.covers w ≠ true) :
    decode w = .error (rejectReason w) := by
  simp only [decode, List.find?_eq_none.mpr h]

/-- A word that decodes is covered by a row, which builds its command (R87). -/
theorem exists_covers_of_decode_eq_ok {w : Word} {i : Instr} (h : decode w = .ok i) :
    ∃ r ∈ opcodeTable, r.covers w = true ∧ r.build w = i := by
  by_contra hn
  have hnone : ∀ r ∈ opcodeTable, r.covers w ≠ true := fun r hr hc =>
    hn ⟨r, hr, hc, Except.ok.inj ((decode_of_covers hr hc).symm.trans h)⟩
  cases (decode_of_not_covered hnone).symm.trans h

/-- At most one row covers a word. -/
theorem Row.eq_of_covers {r q : Row} (hr : r ∈ opcodeTable) (hq : q ∈ opcodeTable) {w : Word} (hrw : r.covers w = true)
    (hqw : q.covers w = true) : r = q :=
  Option.some.inj ((Row.find_covers opcodeTable_disjoint hr hrw).symm.trans (Row.find_covers opcodeTable_disjoint hq hqw))

/-! ### The fields of a covered word -/

/-- Every row fixes OP and RSV whole, and RSV to 0 (R86). -/
theorem opcodeTable_fixes_op_rsv :
    ∀ r ∈ opcodeTable, opField r.mask = BitVec.allOnes 8 ∧ rsvField r.mask = BitVec.allOnes 6 ∧ rsvField r.pat = 0#6 := by
  decide

/-- A run of bits that a row fixes whole is the row's in every word it covers. -/
theorem Row.covers_extractLsb' {r : Row} {w : Word} (h : r.covers w = true) {k n : Nat}
    (hm : r.mask.extractLsb' k n = BitVec.allOnes n) : w.extractLsb' k n = r.pat.extractLsb' k n := by
  rw [← Row.covers_eq_true.mp h, BitVec.extractLsb'_and, hm, BitVec.and_allOnes]

/-- A bit that a row fixes is the row's in every word it covers. -/
theorem Row.covers_getLsbD {r : Row} {w : Word} (h : r.covers w = true) {k : Nat} (hm : r.mask.getLsbD k = true) :
    w.getLsbD k = r.pat.getLsbD k := by
  rw [← Row.covers_eq_true.mp h, BitVec.getLsbD_and, hm, Bool.and_true]

theorem Row.covers_opField {r : Row} (hr : r ∈ opcodeTable) {w : Word} (h : r.covers w = true) :
    opField w = opField r.pat :=
  Row.covers_extractLsb' h (opcodeTable_fixes_op_rsv r hr).1

theorem Row.covers_rsvField {r : Row} (hr : r ∈ opcodeTable) {w : Word} (h : r.covers w = true) : rsvField w = 0#6 :=
  have ⟨_, hmask, hpat⟩ := opcodeTable_fixes_op_rsv r hr
  (Row.covers_extractLsb' h hmask).trans hpat

/-- A run of one bit is that bit. -/
theorem extractLsb'_one (w : Word) (k : Nat) : w.extractLsb' k 1 = BitVec.ofBool (w.getLsbD k) := by
  refine BitVec.eq_of_getLsbD_eq fun j hj => ?_
  obtain rfl : j = 0 := Nat.lt_one_iff.mp hj
  simp

theorem chBit_chField (w : Word) : chBit (chField w) = w.extractLsb' 8 1 := by
  rw [extractLsb'_one, chField]
  cases w.getLsbD 8 <;> rfl

theorem engBit_engField (w : Word) : engBit (engField w) = w.extractLsb' 9 1 := by
  rw [extractLsb'_one, engField]
  cases w.getLsbD 9 <;> rfl

/-- A word whose RSV is 0 is made of its other four fields: neighbouring runs of bits make one run (R81). -/
theorem encodeFields_of_rsvField_eq_zero {w : Word} (h : rsvField w = 0#6) :
    encodeFields (argField w) (engField w) (chField w) (opField w) = w := by
  rw [encodeFields, ← h, chBit_chField, engBit_engField]
  unfold argField rsvField opField
  rw [BitVec.extractLsb'_append_extractLsb'_eq_extractLsb' (show 16 = 10 + 6 from rfl),
    BitVec.extractLsb'_append_extractLsb'_eq_extractLsb' (show 10 = 9 + 1 from rfl),
    BitVec.extractLsb'_append_extractLsb'_eq_extractLsb' (show 9 = 8 + 1 from rfl),
    BitVec.extractLsb'_append_extractLsb'_eq_extractLsb' (show 8 = 0 + 8 from rfl)]
  exact BitVec.extractLsb'_eq_self

/-- No two rows of the opcode map have one OP (R86). -/
theorem opcodeTable_op_nodup : (opcodeTable.map fun r => opField r.pat).Nodup := by decide

/-- The OPs of the opcode map are none of the unused ones (R86, R88). -/
theorem opcodeTable_op_used : ∀ r ∈ opcodeTable,
    ¬ ((0x03#8 ≤ opField r.pat ∧ opField r.pat ≤ 0x0F#8) ∨ (0x18#8 ≤ opField r.pat ∧ opField r.pat ≤ 0x1F#8) ∨
      (0x27#8 ≤ opField r.pat ∧ opField r.pat ≤ 0x2F#8) ∨ 0x32#8 ≤ opField r.pat) := by
  decide

/-! ### The instruction of a covered word -/

/-- A row of the opcode map covers the command word of every well-formed instruction, and builds the instruction from it. -/
theorem matchesRow (i : Instr) : Laws.MatchesRow.Statement i := by
  cases i with
  | nop => exact Laws.MatchesRow.nop
  | blkStatus => exact Laws.MatchesRow.blkStatus
  | blkClear m => exact Laws.MatchesRow.blkClear m
  | rbCapacity => exact Laws.MatchesRow.rbCapacity
  | rbLength => exact Laws.MatchesRow.rbLength
  | rbEmpty => exact Laws.MatchesRow.rbEmpty
  | rbWriteHead => exact Laws.MatchesRow.rbWriteHead
  | rbDistWrap => exact Laws.MatchesRow.rbDistWrap
  | rbStore j => exact Laws.MatchesRow.rbStore j
  | rbAdvanceWrite n => exact Laws.MatchesRow.rbAdvanceWrite n
  | rbReadOne => exact Laws.MatchesRow.rbReadOne
  | dmaInit e => exact Laws.MatchesRow.dmaInit e
  | dmaStart e => exact Laws.MatchesRow.dmaStart e
  | dmaArm e x len => exact Laws.MatchesRow.dmaArm e x len
  | dmaAck e x => exact Laws.MatchesRow.dmaAck e x
  | dmaStatus e => exact Laws.MatchesRow.dmaStatus e
  | bufWrite e x k => exact Laws.MatchesRow.bufWrite e x k
  | bufRead e x k => exact Laws.MatchesRow.bufRead e x k
  | cvt => exact Laws.MatchesRow.cvt
  | feed x => exact Laws.MatchesRow.feed x

/-- The word of a row's command, field by field: a field that the row fixes whole is the row's, and any other is the word's own
(R82). -/
theorem Row.encode_build_eq {r : Row} (hr : r ∈ opcodeTable) (w : Word) :
    encode (r.build w) = encodeFields
      (if argField r.mask = BitVec.allOnes 16 then argField r.pat else argField w)
      (if r.mask.getLsbD 9 = true then engField r.pat else engField w)
      (if r.mask.getLsbD 8 = true then chField r.pat else chField w) (opField r.pat) := by
  fin_cases hr <;> rfl

theorem Row.encode_build {r : Row} (hr : r ∈ opcodeTable) {w : Word} (h : r.covers w = true) : encode (r.build w) = w := by
  have harg : (if argField r.mask = BitVec.allOnes 16 then argField r.pat else argField w) = argField w :=
    ite_eq_right_iff.mpr fun hm => (Row.covers_extractLsb' h hm).symm
  have heng : (if r.mask.getLsbD 9 = true then engField r.pat else engField w) = engField w :=
    ite_eq_right_iff.mpr fun hm => by rw [engField, engField, Row.covers_getLsbD h hm]
  have hch : (if r.mask.getLsbD 8 = true then chField r.pat else chField w) = chField w :=
    ite_eq_right_iff.mpr fun hm => by rw [chField, chField, Row.covers_getLsbD h hm]
  rw [Row.encode_build_eq hr, harg, heng, hch, ← Row.covers_opField hr h,
    encodeFields_of_rsvField_eq_zero (Row.covers_rsvField hr h)]

/-- A BLK_CLEAR word with ARG[15:2] = 0 gives a mask that has an encoding (R86, R88). -/
theorem blkClear_argField_wellFormed {w : Word} (h : w.extractLsb' 18 14 = 0#14) :
    (Instr.blkClear (argField w)).wellFormed = true := by
  have hhigh : w.toNat / 2 ^ 18 % 2 ^ 14 = 0 := by
    simpa [Nat.shiftRight_eq_div_pow] using congrArg BitVec.toNat h
  have harg : (argField w).toNat = w.toNat / 2 ^ 16 % 2 ^ 16 := by simp [argField, Nat.shiftRight_eq_div_pow]
  have hlow : (argField w).toNat < 4 := by omega
  simpa [Instr.wellFormed] using hlow

theorem Row.build_wellFormed {r : Row} (hr : r ∈ opcodeTable) {w : Word} (h : r.covers w = true) :
    (r.build w).wellFormed = true := by
  fin_cases hr
  -- BLK_CLEAR is the third row, and the only one whose operand is bounded.
  pick_goal 3
  · exact blkClear_argField_wellFormed (Row.covers_extractLsb' h rfl)
  all_goals rfl

end Sys2Proof
end

section
/-!
SUPPORT. The proofs of the encoding family (30_encoding), first part: decoding and encoding (O1 to O5), a step that performs a command
(O6), and the contexts that FEED stalls (O59).
-/
namespace Sys2Proof.Machine

open Sys2Proof

/-! ### Decoding and encoding -/

/-- Settles O2: a row covers the instruction's word and builds the instruction back. -/
theorem decodeOfEncode : Obligations.DecodeOfEncode := by
  intro i hi
  obtain ⟨r, hr, hcov, hbuild⟩ := matchesRow i hi
  rw [decode_of_covers hr hcov, hbuild]

/-- Settles O3: the word is covered by a row, which builds a well-formed instruction with that word. -/
theorem encodeOfDecode : Obligations.EncodeOfDecode := by
  intro w i h
  obtain ⟨r, hr, hcov, rfl⟩ := exists_covers_of_decode_eq_ok h
  exact ⟨Row.build_wellFormed hr hcov, Row.encode_build hr hcov⟩

/-- Settles O4: the rows are disjoint, so the search finds the row that covers the word, if there is one. -/
theorem decodeByOneRow : Obligations.DecodeByOneRow := by
  simp only [Obligations.DecodeByOneRow, ne_eq, ← Row.covers_eq_true]
  exact fun w => ⟨fun r hr h => decode_of_covers hr h, fun h => ⟨_, decode_of_not_covered h⟩,
    fun r hr q hq hrw hqw => congrArg Row.pat (Row.eq_of_covers hr hq hrw hqw)⟩

/-- Settles O1: the decoder evaluates on each word, and on the eight illegal ones it gives a reason and no command. -/
theorem specWordsDecode : Obligations.SpecWordsDecode := by
  refine ⟨rfl, rfl, rfl, rfl, rfl, fun w hw i hi => ?_⟩
  fin_cases hw <;> cases hi

/-- An illegal word is refused as a whole (R87, R88). -/
theorem performWord_of_illegal {w : Word} {why : Reject} (h : decode w = .error why) (s : State) :
    performWord w s = .next (s.completeOn s.cur (statusCode .errIllegal) 0 0) := by
  simp only [performWord, h]
  rfl

/-- Settles O5: a row that covered such a word would have its OP, which is in the map, and its RSV, which is 0; and since no two rows
have one OP, it would be the row that fixes the offending bit to 0. -/
theorem illegalWordRefused : Obligations.IllegalWordRefused := by
  refine ⟨fun w hw => ⟨_, decode_of_not_covered fun r hr hcov => ?_⟩, fun s w why hc h => ?_⟩
  · rw [Row.covers_opField hr hcov] at hw
    have hused := opcodeTable_op_used r hr
    have hrsv := Row.covers_rsvField hr hcov
    rcases hw with h | h | h | h | h | ⟨q, hq, hop, k, hmask, hpat, hbit⟩
    · exact hused (.inl h)
    · exact hused (.inr (.inl h))
    · exact hused (.inr (.inr (.inl h)))
    · exact hused (.inr (.inr (.inr h)))
    · exact h hrsv
    · obtain rfl := List.inj_on_of_nodup_map opcodeTable_op_nodup hq hr hop
      rw [Row.covers_getLsbD hcov hmask, hpat] at hbit
      cases hbit
  · exact ⟨_, performWord_of_illegal h s, State.completeOn_onlyResults hc .errIllegal 0 0⟩

/-! ### A step -/

/-- A legal word performs its command (R87). -/
theorem performWord_of_decode {w : Word} {i : Instr} (h : decode w = .ok i) (s : State) : performWord w s = exec i s := by
  simp only [performWord, h]

/-- What a transaction writes to its port (R80). -/
theorem State.port_issued_self {s : State} {p : Nat} (h : p < s.ports.length) (d : Option Word) (w : Word) :
    (s.issued p d w).port p = { s.port p with cmd := w, data := d.getD (s.port p).data } := State.port_setPort_self h _

theorem State.port_issued_ne {s : State} {p k : Nat} (h : k ≠ p) (d : Option Word) (w : Word) :
    (s.issued p d w).port k = s.port k := State.port_setPort_ne h _

/-- Settles O6: the transaction's writes to its port, and then the command its word decodes to. -/
theorem stepRunsDecoded : Obligations.StepRunsDecoded := by
  intro s p data w rest i hagenda hc hdec
  have hstep : step s = performMove (.command p data w) { s with agenda := rest } := by
    simp only [step, State.nextMove, State.moveTaken, hagenda]
  have hc' : ({ s with agenda := rest } : State).canIssue p = true := hc
  refine ⟨({ s with agenda := rest } : State).issued p data w, ?_, rfl, by simp,
    State.port_issued_self (State.canIssue_lt hc) data w, fun k hk => State.port_issued_ne hk data w⟩
  rw [hstep, performMove, commandMove, if_pos hc', performWord_of_decode hdec]

/-- The context of a FEED in progress can issue nothing (R80). -/
theorem State.canIssue_feeder_port {s : State} (hb : s.feeder.busy = true) : s.canIssue s.feeder.port = false := by
  simp [State.canIssue, hb]

theorem performMove_command_of_not_canIssue {s : State} {p : Nat} (h : s.canIssue p = false) (data : Option Word) (w : Word) :
    performMove (.command p data w) s = .next s := by
  simp [performMove, commandMove, h]

/-- A held FEED's move (R177). -/
theorem performMove_resume {s : State} {p : Nat} {x : Chan} (hh : (s.port p).issuer = .holding x) :
    performMove (.resume p) s = if s.feeder.busy then .next s else exec (.feed x) (s.released p) := by
  simp only [performMove, resumeMove, hh]

/-- Settles O59: the context of a FEED in progress can issue nothing, and a held FEED's move waits for the FEED in progress to end. -/
theorem feedStallsIssuer : Obligations.FeedStallsIssuer := by
  refine ⟨fun s data w hb => performMove_command_of_not_canIssue (State.canIssue_feeder_port hb) data w,
    fun s p x hh hb => ?_, fun s p x hp hh hb => ?_⟩
  · rw [performMove_resume hh, if_pos hb]
  · refine ⟨s.released p, by rw [performMove_resume hh, if_neg (by simp [hb])], rfl, State.setPort_length _ _ _,
      State.port_setPort_self hp _, fun k hk => State.port_setPort_ne hk _⟩

end Sys2Proof.Machine
end

section
/-!
SUPPORT. The proofs of the encoding family (30_encoding), second part: the host sequences BOOT_OUT (O60) and PUSH_BLOCK (O21).
-/
namespace Sys2Proof.Machine

open Sys2Proof

/-! ### Host sequences -/

theorem runIssues_cons {p : Nat} {c : Issue} {s t : State} (h : exec c.instr (s.issued p c.data (encode c.instr)) = .next t)
    (l : List Issue) : runIssues p (c :: l) s = runIssues p l t := by
  simp only [runIssues, h]

theorem runIssues_append {p : Nat} {l : List Issue} {s t : State} (h : runIssues p l s = .next t) (l' : List Issue) :
    runIssues p (l ++ l') s = runIssues p l' t := by
  induction l generalizing s with
  | nil => cases h; rfl
  | cons c l ih =>
    obtain ⟨u, hu⟩ := exec_answers c.instr (s.issued p c.data (encode c.instr))
    rw [runIssues_cons hu] at h
    rw [List.cons_append, runIssues_cons hu, ih h]

/-! ### BOOT_OUT -/

/-- What DMA_INIT of an engine that does not run answers (R130). -/
theorem exec_dmaInit_of_stopped {s : State} {e : Eng} (hr : (s.eng e).run = false) :
    exec (.dmaInit e) s =
      .next ((s.setEng e (s.eng e).initialised).completeOn s.cur (statusCode .ok) 0 0) := by
  simp [exec, execDmaInit, hr, finish]

/-- What DMA_START of an initialised engine that does not run answers (R131). -/
theorem exec_dmaStart_of_inited {s : State} {e : Eng} (hi : (s.eng e).inited = true) (hr : (s.eng e).run = false) :
    exec (.dmaStart e) s = .next (((s.trigger e .a).setRun e).completeOn s.cur (statusCode .ok) 0 0) := by
  simp [exec, execDmaStart, hi, hr, finish]

/-- DMA_INIT in a sequence, of an engine that does not run (R130). -/
theorem runIssues_dmaInit {s : State} {e : Eng} (hr : (s.eng e).run = false) (p : Nat) (l : List Issue) :
    ∃ u, runIssues p (.plain (.dmaInit e) :: l) s = runIssues p l u ∧ u.eng e = (s.eng e).initialised ∧
      u.faults = s.faults := by
  refine ⟨_, runIssues_cons (exec_dmaInit_of_stopped (s := s.issued p _ _) (by cases e <;> exact hr)) l, ?_, by simp⟩
  cases e <;> rfl

/-- DMA_START in a sequence, of an initialised engine that does not run: a missed re-arm is recorded if A is not armed (R131, R153). -/
theorem runIssues_dmaStart {s : State} {e : Eng} (hi : (s.eng e).inited = true) (hr : (s.eng e).run = false) (p : Nat)
    (l : List Issue) :
    ∃ u, runIssues p (.plain (.dmaStart e) :: l) s = runIssues p l u ∧
      u.eng e = { (s.eng e).setCh .a ((s.eng e).ch .a).triggered with run := true } ∧
      u.faults = { s.faults with missedRearm := s.faults.missedRearm || !((s.eng e).ch .a).armed } := by
  refine ⟨_, runIssues_cons (exec_dmaStart_of_inited (s := s.issued p _ _) (by cases e <;> exact hi)
    (by cases e <;> exact hr)) l, ?_, ?_⟩ <;> cases e <;> rfl

/-- An engine as DMA_INIT and DMA_START leave it: A transfers, B is armed (R130, R131). -/
def Engine.booted (g : Engine) : Engine :=
  { g.initialised.setCh .a Channel.configured.triggered with run := true }

/-- BOOT_OUT without priming, where engine OUT does not run: DMA_INIT arms A, so DMA_START records no missed re-arm (R94, R131,
R153). -/
theorem runIssues_bootOut {s : State} (hr : s.outEng.run = false) (p : Nat) :
    ∃ t, runIssues p (bootOut false) s = .next t ∧ t.outEng = s.outEng.booted ∧ t.faults = s.faults := by
  obtain ⟨u, hu, hueng, hufaults⟩ := runIssues_dmaInit (e := .out) hr p [.plain (.dmaStart .out)]
  obtain ⟨t, ht, hteng, htfaults⟩ := runIssues_dmaStart (by rw [hueng]; rfl) (by rw [hueng]; exact hr) p []
  rw [hueng] at hteng htfaults
  refine ⟨t, hu.trans ht, hteng, htfaults.trans ?_⟩
  rw [hufaults, show ((s.eng .out).initialised.ch .a).armed = true from rfl, Bool.not_true, Bool.or_false]

/-- Settles O60: engine OUT does not run after reset, and a booted engine reads as the rule says. -/
theorem bootOutStartsChain : Obligations.BootOutStartsChain := by
  intro p k _ _
  obtain ⟨t, hrun, heng, hfaults⟩ := runIssues_bootOut (s := State.resetWith p) rfl k
  have hbooted : t.outEng = Engine.reset.booted := heng
  refine ⟨t, hrun, ?_⟩
  rw [hbooted]
  exact ⟨by decide, rfl, rfl, rfl, rfl, fun x i => by cases x <;> rfl, hfaults⟩

/-! ### One linear write -/

/-- The samples of `v` written to ring storage one after the other from index `w` on, each index taken modulo the capacity: the linear
write that R112 compares a PUSH_BLOCK with. -/
def ringWrite (p : Params) (m : Memory) (w : Nat) : List Word → Memory
  | [] => m
  | x :: v => ringWrite p (m.write (w % p.capacity) (sampleOf p x)) (w + 1) v

section
variable {p : Params}

theorem ringWrite_append (m : Memory) (w : Nat) (u v : List Word) :
    ringWrite p m w (u ++ v) = ringWrite p (ringWrite p m w u) (w + u.length) v := by
  induction u generalizing m w with
  | nil => rfl
  | cons x u ih => simp only [List.cons_append, ringWrite, ih, List.length_cons, Nat.add_assoc, Nat.add_comm 1]

/-- Only the start index modulo the capacity matters. -/
theorem ringWrite_mod (m : Memory) (w : Nat) (v : List Word) : ringWrite p m (w % p.capacity) v = ringWrite p m w v := by
  have hcongr : ∀ (m : Memory) (a b : Nat), a % p.capacity = b % p.capacity → ringWrite p m a v = ringWrite p m b v := by
    induction v with
    | nil => exact fun _ _ _ _ => rfl
    | cons x v ih =>
      intro m a b h
      rw [ringWrite, ringWrite, h]
      exact ih _ _ _ (Nat.ModEq.add_right 1 h)
  exact hcongr m _ _ (Nat.mod_mod _ _)

/-- A linear write leaves alone every element it does not reach. -/
theorem read_ringWrite_ne {v : List Word} {k w : Nat} (m : Memory) (h : ∀ i, i < v.length → k ≠ (w + i) % p.capacity) :
    (ringWrite p m w v).read k = m.read k := by
  induction v generalizing m w with
  | nil => rfl
  | cons x v ih =>
    have hrest : ∀ i, i < v.length → k ≠ (w + 1 + i) % p.capacity := fun i hi => by
      rw [Nat.add_assoc, Nat.add_comm 1]
      exact h (i + 1) (Nat.succ_lt_succ hi)
    rw [ringWrite, ih _ hrest]
    exact Memory.read_write_ne (h 0 (Nat.zero_lt_succ _))

/-- Two indices less than a lap apart are different elements. -/
theorem mod_ne_add_mod {C i : Nat} (hi : 0 < i) (hC : i < C) (w : Nat) : w % C ≠ (w + i) % C := fun h => by
  have hdvd := (Nat.modEq_iff_dvd' (Nat.le_add_right w i)).mp h
  rw [Nat.add_sub_cancel_left] at hdvd
  exact absurd (Nat.le_of_dvd hi hdvd) (Nat.not_le_of_lt hC)

/-- A linear write of at most a lap leaves each sample at its element. -/
theorem read_ringWrite {v : List Word} {m : Memory} (hm : m.wf = true) {w : Nat} (hv : v.length ≤ p.capacity) {i : Nat}
    (h : i < v.length) : (ringWrite p m w v).read ((w + i) % p.capacity) = sampleOf p v[i] := by
  induction v generalizing m w i with
  | nil => cases h
  | cons x v ih =>
    rw [List.length_cons] at hv
    cases i with
    | zero =>
      have hlater : ∀ j, j < v.length → w % p.capacity ≠ (w + 1 + j) % p.capacity := fun j hj => by
        rw [Nat.add_assoc]
        exact mod_ne_add_mod (by omega) (by omega) w
      rw [Nat.add_zero, ringWrite, read_ringWrite_ne _ hlater, Memory.read_write_self hm, List.getElem_cons_zero]
    | succ i =>
      rw [ringWrite, show w + (i + 1) = w + 1 + i by omega,
        ih (Memory.write_wf hm _ _) (Nat.le_of_succ_le hv) (Nat.lt_of_succ_lt_succ h), List.getElem_cons_succ]

end

/-! ### PUSH_BLOCK -/

/-- `t` is `s` with the ring storage `m` and the write cursor `w`, as far as the producer's commands read it. -/
structure RingMoved (s t : State) (m : Memory) (w : Nat) : Prop where
  par : t.par = s.par
  length : t.ports.length = s.ports.length
  ring : t.ring = m
  wr : t.wr = w

theorem RingMoved.trans {s t u : State} {m m' : Memory} {w w' : Nat} (h : RingMoved s t m w) (h' : RingMoved t u m' w') :
    RingMoved s u m' w' :=
  ⟨h'.par.trans h.par, h'.length.trans h.length, h'.ring, h'.wr⟩

/-- `t` is `s` after one linear write of `v` at the write cursor, and the cursor moved past it (R91, R112). -/
def RingPushed (s t : State) (v : List Word) : Prop :=
  RingMoved s t (ringWrite s.par s.ring s.wr v) ((s.wr + v.length) % s.par.capacity)

theorem RingPushed.nil {s : State} (hw : s.wr < s.par.capacity) : RingPushed s s [] :=
  ⟨rfl, rfl, rfl, (Nat.mod_eq_of_lt hw).symm⟩

/-- Two linear writes in a row are one. -/
theorem RingPushed.append {s t u : State} {v v' : List Word} (h : RingPushed s t v) (h' : RingPushed t u v') :
    RingPushed s u (v ++ v') := by
  have hmoved := h.trans h'
  rwa [h.par, h.ring, h.wr, ringWrite_mod, Nat.mod_add_mod, Nat.add_assoc, ← ringWrite_append,
    ← List.length_append] at hmoved

/-- A 16-bit argument holds every offset and count of a legal ring (R5, R83). -/
theorem toNat_arg16 {n : Nat} (h : n ≤ 65535) : (arg16 n).toNat = n :=
  Nat.mod_eq_of_lt (Nat.lt_succ_of_le h)

/-- What RB_STORE below the wrap point answers (R106). -/
theorem exec_rbStore_of_lt {s : State} {j : BitVec 16} (hj : j.toNat < s.par.capacity - s.wr) :
    exec (.rbStore j) s =
      .next (({ s.writeSide with ring := s.ring.write (s.wr + j.toNat) s.sampleOperand } : State).completeOn s.cur
        (statusCode .ok) 0 0) := by
  have hroom : ¬ s.writeSide.ringDist ≤ argValue j := Nat.not_le_of_lt hj
  simp only [exec, execRbStore, if_neg hroom]
  rfl

section
variable {s : State} {q : Nat}

/-- RB_DIST_WRAP moves nothing (R105). -/
theorem runIssues_rbDistWrap (l : List Issue) :
    ∃ u, runIssues q (.plain .rbDistWrap :: l) s = runIssues q l u ∧ RingMoved s u s.ring s.wr := by
  refine ⟨_, runIssues_cons rfl l, ?_⟩
  constructor <;> simp

/-- RB_STORE below the wrap point writes its sample and leaves the cursor (R106). -/
theorem runIssues_rbStore (hq : q < s.ports.length) (hC : s.par.capacity ≤ 65535) {j : Nat}
    (hj : s.wr + j < s.par.capacity) (x : Word) (l : List Issue) :
    ∃ u, runIssues q (⟨.rbStore (arg16 j), some x⟩ :: l) s = runIssues q l u ∧
      RingMoved s u (s.ring.write (s.wr + j) (sampleOf s.par x)) s.wr := by
  have harg : (arg16 j).toNat = j := toNat_arg16 (by omega)
  have hroom : (arg16 j).toNat < s.par.capacity - s.wr := by omega
  refine ⟨_, runIssues_cons (exec_rbStore_of_lt (s := s.issued q _ _) hroom) l, ?_⟩
  constructor <;> simp [State.sampleOperand, State.data, State.port_issued_self hq, harg]

/-- RB_ADVANCE_WRITE moves the cursor and leaves ring storage (R107). -/
theorem runIssues_rbAdvanceWrite {n : Nat} (hn : n ≤ 65535) (l : List Issue) :
    ∃ u, runIssues q (.plain (.rbAdvanceWrite (arg16 n)) :: l) s = runIssues q l u ∧
      RingMoved s u s.ring ((s.wr + n) % s.par.capacity) := by
  refine ⟨_, runIssues_cons rfl l, ?_⟩
  constructor <;> simp [State.advanceWr, toNat_arg16 hn, Issue.plain]

/-- The stores of one phase are one linear write below the wrap point; the cursor does not move (R91, R106). -/
theorem runIssues_pushStores {v : List Word} {j : Nat} (hq : q < s.ports.length) (hC : s.par.capacity ≤ 65535)
    (hj : s.wr + j + v.length ≤ s.par.capacity) :
    ∃ t, runIssues q (pushStores j v) s = .next t ∧ RingMoved s t (ringWrite s.par s.ring (s.wr + j) v) s.wr := by
  induction v generalizing s j with
  | nil => exact ⟨s, rfl, rfl, rfl, rfl, rfl⟩
  | cons x v ih =>
    rw [List.length_cons] at hj
    have hlt : s.wr + j < s.par.capacity := by omega
    obtain ⟨u, hu, hsu⟩ := runIssues_rbStore hq hC hlt x (pushStores (j + 1) v)
    obtain ⟨t, ht, hut⟩ := ih (s := u) (j := j + 1) (hsu.length ▸ hq) (hsu.par ▸ hC) (by rw [hsu.par, hsu.wr]; omega)
    rw [hsu.par, hsu.ring, hsu.wr] at hut
    refine ⟨t, hu.trans ht, ?_⟩
    rw [ringWrite, Nat.mod_eq_of_lt hlt]
    exact hsu.trans hut

/-- One phase of a PUSH_BLOCK is one linear write of as many samples as fit before the wrap point (R91). -/
theorem runIssues_pushPhase (v : List Word) (hq : q < s.ports.length) (hC : s.par.capacity ≤ 65535)
    (hw : s.wr < s.par.capacity) :
    ∃ t, runIssues q (pushPhase s.ringDist v) s = .next t ∧ RingPushed s t (v.take s.ringDist) := by
  have hdist : s.ringDist = s.par.capacity - s.wr := rfl
  have hlen : (v.take s.ringDist).length = min v.length s.ringDist := by rw [List.length_take, Nat.min_comm]
  rw [pushPhase, ← hlen, List.cons_append]
  obtain ⟨s1, h1, hs1⟩ := runIssues_rbDistWrap (s := s) (q := q)
    (pushStores 0 (v.take s.ringDist) ++ [.plain (.rbAdvanceWrite (arg16 (v.take s.ringDist).length))])
  obtain ⟨s2, h2, hs2⟩ := runIssues_pushStores (s := s1) (j := 0) (v := v.take s.ringDist) (hs1.length ▸ hq) (hs1.par ▸ hC)
    (by rw [hs1.par, hs1.wr, hlen]; omega)
  obtain ⟨t, h3, hs3⟩ := runIssues_rbAdvanceWrite (s := s2) (q := q) (n := (v.take s.ringDist).length) (by omega) []
  refine ⟨t, by rw [h1, runIssues_append h2, h3, runIssues], ?_⟩
  have hmoved := (hs1.trans hs2).trans hs3
  rwa [hs2.par, hs2.wr, hs2.ring, hs1.par, hs1.ring, hs1.wr] at hmoved

theorem pushPhases_nil (fuel C d : Nat) : pushPhases fuel C d [] = [] := by
  cases fuel <;> rfl

theorem pushPhases_succ {v : List Word} (hv : v ≠ []) (fuel C d : Nat) :
    pushPhases (fuel + 1) C d v = pushPhase d v ++ pushPhases fuel C C (v.drop d) := by
  rw [pushPhases, if_neg (by simpa using hv)]

/-- A PUSH_BLOCK is one linear write: its first phase ends the block or ends at the wrap point, where the next one starts from index 0
(R91, R112). -/
theorem runIssues_pushPhases {fuel : Nat} {v : List Word} (hfuel : v.length ≤ fuel) (hq : q < s.ports.length)
    (hC : s.par.capacity ≤ 65535) (hw : s.wr < s.par.capacity) :
    ∃ t, runIssues q (pushPhases fuel s.par.capacity s.ringDist v) s = .next t ∧ RingPushed s t v := by
  induction fuel generalizing s v with
  | zero =>
    obtain rfl := List.length_eq_zero_iff.mp (Nat.le_zero.mp hfuel)
    exact ⟨s, rfl, .nil hw⟩
  | succ fuel ih =>
    by_cases hv : v = []
    · subst hv
      exact ⟨s, rfl, .nil hw⟩
    obtain ⟨u, hu, hsu⟩ := runIssues_pushPhase v hq hC hw
    rw [pushPhases_succ hv, runIssues_append hu]
    have hdist : s.ringDist = s.par.capacity - s.wr := rfl
    by_cases hfit : v.length ≤ s.ringDist
    · rw [List.drop_eq_nil_of_le hfit, pushPhases_nil]
      rw [List.take_of_length_le hfit] at hsu
      exact ⟨u, rfl, hsu⟩
    · have hwrap : u.wr = 0 := by
        rw [hsu.wr, List.length_take, show s.wr + min s.ringDist v.length = s.par.capacity by omega, Nat.mod_self]
      have hdist' : u.ringDist = s.par.capacity := by rw [State.ringDist, hsu.par, hwrap, Nat.sub_zero]
      obtain ⟨t, ht, hut⟩ := ih (s := u) (v := v.drop s.ringDist) (by rw [List.length_drop]; omega) (hsu.length ▸ hq)
        (hsu.par ▸ hC) (by rw [hsu.par, hwrap]; omega)
      rw [hdist', hsu.par] at ht
      rw [← List.take_append_drop s.ringDist v]
      exact ⟨t, by rwa [List.take_append_drop], hsu.append hut⟩
end

/-- Settles O21: PUSH_BLOCK leaves one linear write, of at most a lap. -/
theorem pushBlockSplitsAtWrap : Obligations.PushBlockSplitsAtWrap := by
  intro s p v h hp hv
  obtain ⟨-, hC, -⟩ := (Params.legal_iff _).mp h.legal
  obtain ⟨t, ht, hpush⟩ := runIssues_pushPhases (Nat.le_refl v.length) (h.ports ▸ hp) hC h.wr
  refine ⟨t, ht, hpush.wr, fun i hi => ?_, fun k hk => ?_⟩
  · rw [hpush.ring, read_ringWrite h.mem.ringWf hv hi]
    rfl
  · rw [hpush.ring, read_ringWrite_ne _ hk]

end Sys2Proof.Machine
end

section
/-!
SUPPORT. The proofs of the ring buffer family (40_ring_buffer): the queries RB_CAPACITY (O10), RB_LENGTH (O11), RB_EMPTY (O12),
RB_WRITE_HEAD (O13) and RB_DIST_WRAP (O14), the commands RB_STORE (O15), RB_ADVANCE_WRITE (O16) and RB_READ_ONE (O17), and the
ring as a queue under an advance (O19) and a store (O20).
-/
namespace Sys2Proof.Machine

open Sys2Proof

/-! ### The queries -/

/-- A count that a legal ring can have is its own result word (R5, R84). -/
theorem toNat_countWord {n : Nat} (h : n ≤ 65535) : (countWord n).toNat = n :=
  Nat.mod_eq_of_lt (by omega)

/-- A command that only returns a result completes with it, and changes nothing else (R80). -/
theorem finish_onlyResults {s : State} (hc : s.cur < s.ports.length) (r : Word) :
    ∃ t, finish s r 0 = .next t ∧ Answers s t .ok r 0 ∧ OnlyResults s t :=
  ⟨_, rfl, State.completeOn_onlyResults hc .ok r 0⟩

/-- No move changes a parameter (R5). -/
theorem performMove_par {m : Move} {s t : State} (h : performMove m s = .next t) : t.par = s.par := by
  cases performMove_cases h with
  | exec p data w i hc ht => exact (exec_kept ht).1
  | resume p x hh hb ht => exact (exec_kept ht).1
  | feeder => exact (feederStep_kept s).1
  | element e x => exact (element_kept s e x).1
  | _ => rfl

/-- Settles O10: a query, and every move keeps the parameters. -/
theorem rbCapacityCompletes : Obligations.RbCapacityCompletes := by
  refine ⟨decodeOfEncode .rbCapacity rfl, fun s hc hC => ?_, fun s t h => ?_⟩
  · obtain ⟨t, ht, hans, honly⟩ := finish_onlyResults hc (countWord s.par.capacity)
    exact ⟨t, _, ht, hans, toNat_countWord hC, honly⟩
  · rw [← s.moveTaken_par]
    exact performMove_par h

/-- Settles O11: a query, of a length that is below the capacity. -/
theorem rbLengthCountsUnread : Obligations.RbLengthCountsUnread := by
  refine ⟨decodeOfEncode .rbLength rfl, fun s hc hC hw hr => ?_⟩
  obtain ⟨t, ht, hans, honly⟩ := finish_onlyResults hc (countWord s.ringLength)
  have hlt := State.ringLength_lt hw hr
  refine ⟨t, _, ht, hans, honly, ?_⟩
  rw [toNat_countWord (by omega)]
  exact ⟨State.ringLength_eq hw hr, Nat.le_sub_one_of_lt hlt, State.ringLength_eq_zero hw hr⟩

/-- Settles O12: a query of the flag that compares the cursors. -/
theorem rbEmptyTestsCursors : Obligations.RbEmptyTestsCursors := by
  refine ⟨decodeOfEncode .rbEmpty rfl, fun s hc => ?_⟩
  obtain ⟨t, ht, hans, honly⟩ := finish_onlyResults hc (flagWord s.ringEmpty)
  refine ⟨t, _, ht, hans, honly, fun he => ?_, fun hne => ?_⟩
  · exact if_pos (State.ringEmpty_iff.mpr he)
  · exact if_neg (mt State.ringEmpty_iff.mp hne)

/-- Settles O13: a query of the write cursor. -/
theorem rbWriteHeadReadsCursor : Obligations.RbWriteHeadReadsCursor := by
  refine ⟨decodeOfEncode .rbWriteHead rfl, fun s hc hC hw => ?_⟩
  obtain ⟨t, ht, hans, honly⟩ := finish_onlyResults hc (countWord s.wr)
  exact ⟨t, _, ht, hans, toNat_countWord (by omega), honly⟩

/-- Settles O14: a query of the room before the wrap point, which the cursor's range keeps from 0. -/
theorem rbDistWrapReadsRoom : Obligations.RbDistWrapReadsRoom := by
  refine ⟨decodeOfEncode .rbDistWrap rfl, fun s hc hC hw => ?_⟩
  obtain ⟨t, ht, hans, honly⟩ := finish_onlyResults hc (countWord s.ringDist)
  have hdist : (countWord s.ringDist).toNat = s.par.capacity - s.wr :=
    toNat_countWord ((Nat.sub_le _ _).trans hC)
  exact ⟨t, _, ht, hans, hdist, by omega, by omega, honly⟩

/-! ### RB_STORE, RB_ADVANCE_WRITE and RB_READ_ONE -/

/-- The write-side check records exactly an issuer that is not `PRODUCER` (R100). -/
theorem SpscChecked.of_writeSide {s t : State} (h : t.faults = s.writeSide.faults) : SpscChecked s t s.par.producer := by
  simp [SpscChecked, h]

/-- The read-side check records exactly an issuer that is not `CONSUMER` (R100). -/
theorem SpscChecked.of_readSide {s t : State} (h : t.faults = s.readSide.faults) : SpscChecked s t s.par.consumer := by
  simp [SpscChecked, h]

/-- What RB_STORE at or past the wrap point answers (R106). -/
theorem exec_rbStore_of_le {s : State} {j : BitVec 16} (hj : s.par.capacity - s.wr ≤ j.toNat) :
    exec (.rbStore j) s = .next (s.writeSide.completeOn s.cur (statusCode .errRange) 0 0) := by
  have hroom : s.writeSide.ringDist ≤ argValue j := hj
  simp only [exec, execRbStore, if_pos hroom]
  rfl

/-- Settles O15: the write-side check, and then the one write or the refusal. -/
theorem rbStoreWritesOrRefuses : Obligations.RbStoreWritesOrRefuses := by
  refine ⟨fun j => by rw [commandWord_eq]; exact decodeOfEncode (.rbStore j) rfl, fun s j hc hm => ?_⟩
  by_cases hj : j.toNat < s.par.capacity - s.wr
  · obtain ⟨hans, hports⟩ := State.completeOn_spec
      (u := { s.writeSide with ring := s.ring.write (s.wr + j.toNat) s.sampleOperand }) rfl hc .ok 0 0
    exact ⟨_, exec_rbStore_of_lt hj, .of_writeSide rfl, hports, rfl, fun hge => absurd hj (Nat.not_lt_of_le hge),
      fun _ => ⟨hans, Memory.read_write_self hm _ _, fun k hk => Memory.read_write_ne hk⟩⟩
  · have hge := Nat.le_of_not_lt hj
    obtain ⟨hans, hports⟩ := State.completeOn_spec (u := s.writeSide) rfl hc .errRange 0 0
    exact ⟨_, exec_rbStore_of_le hge, .of_writeSide rfl, hports, rfl, fun _ => ⟨hans, rfl⟩, fun hlt => absurd hlt hj⟩

/-- What RB_ADVANCE_WRITE answers (R107). -/
theorem exec_rbAdvanceWrite (s : State) (n : BitVec 16) :
    exec (.rbAdvanceWrite n) s =
      .next (((s.writeSide.noteOverrun n.toNat).advanceWr n.toNat).completeOn s.cur (statusCode .ok) 0 0) := rfl

/-- OVERRUN is set on an advance by more than the free space, under OVERRUN_DETECT, and is never cleared here (R107, R110). -/
theorem State.noteOverrun_iff (s : State) (n : Nat) :
    (s.noteOverrun n).overrun = true ↔
      s.overrun = true ∨ (s.par.overrunDetect = true ∧ s.par.capacity - 1 - s.ringLength < n) := by
  simp [State.overruns]

/-- Settles O16: the write-side check, the overrun check, and the move of the cursor. -/
theorem rbAdvanceWriteCommits : Obligations.RbAdvanceWriteCommits := by
  refine ⟨fun n => by rw [commandWord_eq]; exact decodeOfEncode (.rbAdvanceWrite n) rfl, fun s n hc => ?_⟩
  obtain ⟨hans, hports⟩ := State.completeOn_spec
    (u := (s.writeSide.noteOverrun n.toNat).advanceWr n.toNat) rfl hc .ok 0 0
  exact ⟨_, exec_rbAdvanceWrite s n, hans, .of_writeSide rfl, hports, rfl, s.writeSide.noteOverrun_iff n.toNat, rfl⟩

/-- A ring read moves the read cursor, and counts the free value that an empty ring takes (R108). -/
theorem State.afterRingRead_eq (s : State) :
    s.afterRingRead =
      { s with rd := (s.rd + 1) % s.par.capacity, fresh := if s.ringEmpty then s.fresh + 1 else s.fresh } := by
  unfold State.afterRingRead
  split <;> rfl

/-- Settles O17: the read-side check, and then the read, whose sample is the ring's where the cursors differ. -/
theorem rbReadOneAdvances : Obligations.RbReadOneAdvances := by
  refine ⟨decodeOfEncode .rbReadOne rfl, fun s hc => ?_⟩
  obtain ⟨hans, hports⟩ := State.completeOn_spec (s := s) (u := s.readSide.afterRingRead) (by simp) hc .ok
    (sextSample s.par s.ringSample) 0
  refine ⟨_, s.ringSample, exec_rbReadOne s, hans, .of_readSide (by simp), hports, fun hne => ?_, by simp, ?_⟩
  · have hempty : ¬ s.ringEmpty = true := mt State.ringEmpty_iff.mp hne
    exact ⟨if_neg hempty, by simp [hempty]⟩
  · simp only [State.afterRingRead_eq]
    rfl

/-! ### The ring as a queue -/

/-- The unread samples end where the write cursor stands (R34). -/
theorem State.rd_add_ringLength_mod {s : State} (hw : s.wr < s.par.capacity) (hr : s.rd < s.par.capacity) :
    (s.rd + s.ringLength) % s.par.capacity = s.wr := by
  rw [State.ringLength_eq hw hr, mod_of_lt_two_mul (by split <;> omega)]
  split_ifs <;> omega

/-- An advance within the free space makes the ring longer by as much (R34, R107, R110). -/
theorem State.ringLength_advanceWr {s : State} (hw : s.wr < s.par.capacity) (hr : s.rd < s.par.capacity) {n : Nat}
    (hn : n ≤ s.par.capacity - 1 - s.ringLength) : (s.advanceWr n).ringLength = s.ringLength + n := by
  have hw' : (s.wr + n) % s.par.capacity < s.par.capacity := Nat.mod_lt _ (Nat.zero_lt_of_lt hw)
  have hwr : (s.advanceWr n).wr = if s.wr + n < s.par.capacity then s.wr + n else s.wr + n - s.par.capacity :=
    mod_of_lt_two_mul (by omega)
  rw [State.ringLength_eq (s := s.advanceWr n) hw' hr, hwr, State.advanceWr_rd, State.advanceWr_par]
  rw [State.ringLength_eq hw hr] at hn ⊢
  split_ifs at hn ⊢ <;> omega

/-- An advance within the free space appends the slots from the write cursor on (R107, R111). -/
theorem State.unread_advanceWr {s : State} (hw : s.wr < s.par.capacity) (hr : s.rd < s.par.capacity) {n : Nat}
    (hn : n ≤ s.par.capacity - 1 - s.ringLength) :
    (s.advanceWr n).unread =
      s.unread ++ (List.range n).map fun k => s.ring.read ((s.wr + k) % s.par.capacity) := by
  rw [State.unread, State.ringLength_advanceWr hw hr hn, List.range_add, List.map_append, List.map_map]
  congr 1
  refine List.map_congr_left fun k _ => ?_
  have hslot : (s.rd + (s.ringLength + k)) % s.par.capacity = (s.wr + k) % s.par.capacity := by
    rw [← Nat.add_assoc, ← Nat.mod_add_mod, State.rd_add_ringLength_mod hw hr]
  exact congrArg s.ring.read hslot

/-- Settles O19: the checks before the move of the cursor bear on no sample. -/
theorem advanceAppendsCommitted : Obligations.AdvanceAppendsCommitted :=
  fun s n _ hw hr hn => ⟨_, exec_rbAdvanceWrite s n, State.unread_advanceWr (s := s) hw hr hn⟩

/-- An element before the wrap point and below the free room is none of the unread ones (R34, R110). -/
theorem State.unread_index_ne {s : State} (hw : s.wr < s.par.capacity) (hr : s.rd < s.par.capacity) {j k : Nat}
    (hj : j < s.par.capacity - s.ringLength) (hwrap : s.wr + j < s.par.capacity) (hk : k < s.ringLength) :
    (s.rd + k) % s.par.capacity ≠ s.wr + j := by
  have hindex : s.wr + j = (s.rd + k + (s.ringLength - k + j)) % s.par.capacity := by
    rw [show s.rd + k + (s.ringLength - k + j) = s.rd + s.ringLength + j by omega, ← Nat.mod_add_mod,
      State.rd_add_ringLength_mod hw hr, Nat.mod_eq_of_lt hwrap]
  rw [hindex]
  exact mod_ne_add_mod (by omega) (by omega) _

/-- Settles O20: a store writes an element that is not unread, or is refused and writes none. -/
theorem storeKeepsUnread : Obligations.StoreKeepsUnread := by
  intro s t j hw hr hj h
  by_cases hwrap : j.toNat < s.par.capacity - s.wr
  · rw [exec_rbStore_of_lt hwrap] at h
    cases h
    refine List.map_congr_left fun k hk => Memory.read_write_ne ?_
    exact State.unread_index_ne hw hr hj (by omega) (List.mem_range.mp hk)
  · rw [exec_rbStore_of_le (Nat.le_of_not_lt hwrap)] at h
    cases h
    exact State.unread_congr rfl rfl rfl rfl

end Sys2Proof.Machine
end

section
/-!
SUPPORT. The proofs of the DMA engine family (41_dma_engine), first part: the commands DMA_INIT (O22), DMA_START (O23), DMA_ARM (O24),
DMA_ACK (O25), DMA_STATUS (O26), BUF_WRITE (O27) and BUF_READ (O28).
-/
namespace Sys2Proof.Machine

open Sys2Proof

/-! ### Completions -/

/-- The word of an instruction, as R81 spells it, decodes to the instruction. -/
theorem decode_commandWord {i : Instr} {arg : BitVec 16} {e : Eng} {x : Chan} {op : BitVec 8} (hi : i.wellFormed = true)
    (h : encode i = encodeFields arg e x op) : decode (commandWord arg e x op) = .ok i := by
  rw [commandWord_eq, ← h]
  exact decodeOfEncode i hi

/-- A refused command completes with its error, and changes nothing else (R201). -/
theorem raiseStatus_onlyResults {s : State} (hc : s.cur < s.ports.length) (c : Status) :
    ∃ t, raiseStatus s c = .next t ∧ Answers s t c 0 0 ∧ OnlyResults s t :=
  ⟨_, rfl, State.completeOn_onlyResults hc c 0 0⟩

/-- A command that leaves the engine `g` in place of engine `e` completes, and changes nothing else (R80). -/
theorem finish_setEng {s : State} (hc : s.cur < s.ports.length) (e : Eng) (g : Engine) (r : Word) :
    ∃ t, finish (s.setEng e g) r 0 = .next t ∧ Answers s t .ok r 0 ∧ OnlyEngine e s t ∧ t.eng e = g := by
  obtain ⟨hans, hports⟩ := State.completeOn_spec (u := s.setEng e g) (s.setEng_ports e g) hc .ok r 0
  refine ⟨(s.setEng e g).completeOn s.cur (statusCode .ok) r 0, by simp [finish], hans, ⟨?_, fun f hf => ?_, hports⟩, ?_⟩
  · cases e <;> rfl
  · rw [State.eng_completeOn, State.eng_setEng_ne s hf]
  · rw [State.eng_completeOn, State.eng_setEng_self]

/-- An engine in which only channel `x` was replaced. -/
theorem OnlyChannel.of_setCh {e : Eng} {x : Chan} {s t : State} {c : Channel} (h : t.eng e = (s.eng e).setCh x c) :
    OnlyChannel e x s t := by
  simp [OnlyChannel, h]

/-! ### DMA_INIT and DMA_START -/

/-- Settles O22: a running engine refuses; a stopped one is replaced by an initialised one, whose buffers are empty. -/
theorem dmaInitConfigures : Obligations.DmaInitConfigures := by
  refine ⟨decodeOfEncode (.dmaInit .out) rfl, decodeOfEncode (.dmaInit .cap) rfl, fun s e hc => ?_⟩
  simp only [exec, execDmaInit]
  cases hr : (s.eng e).run with
  | true =>
    obtain ⟨t, ht, hrefused⟩ := raiseStatus_onlyResults hc .errState
    exact ⟨t, ht, fun _ => hrefused, nofun⟩
  | false =>
    obtain ⟨t, ht, hans, honly, heng⟩ := finish_setEng hc e (s.eng e).initialised 0
    refine ⟨t, ht, nofun, fun _ => ⟨hans, honly, ?_⟩⟩
    rw [heng]
    exact ⟨rfl, hr, fun x => by cases x <;> exact ⟨rfl, fun _ => rfl⟩⟩

/-- DMA_START is refused before DMA_INIT and while the engine runs (R131). -/
theorem exec_dmaStart_of_refused {s : State} {e : Eng} (h : (s.eng e).inited = false ∨ (s.eng e).run = true) :
    exec (.dmaStart e) s = raiseStatus s .errState := by
  simp only [exec, execDmaStart]
  rw [if_pos (by simpa using h)]

/-- What DMA_START's effect does to its own engine: a channel is triggered, and the engine runs (R131). -/
theorem State.eng_setRun_trigger (s : State) (e : Eng) (y : Chan) :
    ((s.trigger e y).setRun e).eng e = { (s.eng e).setCh y ((s.eng e).ch y).triggered with run := true } := by
  simp [State.setRun]

theorem State.eng_setRun_trigger_ne (s : State) {e f : Eng} (h : f ≠ e) (y : Chan) :
    ((s.trigger e y).setRun e).eng f = s.eng f := by
  rw [State.setRun, State.eng_setEng_ne _ h, State.eng_trigger_ne s h]

/-- Between DMA_INIT and DMA_START channel A is armed, so its trigger is no missed re-arm (R131, R153). -/
theorem State.trigger_faults_of_ready {s : State} {e : Eng} (h : (s.eng e).Inv s.par.bufLen) (hr : (s.eng e).run = false)
    (hi : (s.eng e).inited = true) : (s.trigger e .a).faults = s.faults := by
  have harmed : ((s.eng e).ch .a).armed = true := (h.ready hr hi).1
  rw [State.trigger_faults, harmed, Bool.not_true, Bool.or_false]

/-- Settles O23: the trigger of channel A and RUN are one change of the engine and a mark of `Faults`. -/
theorem dmaStartTriggersA : Obligations.DmaStartTriggersA := by
  refine ⟨decodeOfEncode (.dmaStart .out) rfl, decodeOfEncode (.dmaStart .cap) rfl, fun s e hc => ?_⟩
  by_cases hrefused : (s.eng e).inited = false ∨ (s.eng e).run = true
  · obtain ⟨t, ht, hans⟩ := raiseStatus_onlyResults hc .errState
    refine ⟨t, (exec_dmaStart_of_refused hrefused).trans ht, fun _ => hans, fun hi hr => ?_⟩
    simp [hi, hr] at hrefused
  · obtain ⟨hi, hr⟩ : (s.eng e).inited = true ∧ (s.eng e).run = false := by simpa using hrefused
    obtain ⟨hans, hports⟩ := State.completeOn_spec (u := (s.trigger e .a).setRun e) (by simp) hc .ok 0 0
    refine ⟨_, exec_dmaStart_of_inited hi hr, fun h => absurd h hrefused, fun _ _ => ⟨hans, hports, ?_⟩⟩
    rw [Triggered, State.eng_completeOn, State.eng_setRun_trigger, State.completeOn_faults, State.setRun_faults]
    refine ⟨hi, rfl, rfl, rfl, fun y => by cases y <;> rfl, fun f hf => ?_, by simp, by simp,
      fun hinv => State.trigger_faults_of_ready hinv hr hi, ?_⟩
    · rw [State.eng_completeOn, State.eng_setRun_trigger_ne s hf]
    · cases e <;> rfl

/-! ### DMA_ARM, DMA_ACK and DMA_STATUS -/

/-- The checks of DMA_ARM in their order, and its effect (R132, R202). -/
theorem exec_dmaArm (s : State) (e : Eng) (x : Chan) (len : BitVec 16) :
    exec (.dmaArm e x len) s =
      if (s.eng e).inited = false then raiseStatus s .errState
      else if ((s.eng e).ch x).active = true then raiseStatus s .errBusy
      else if len.toNat ≠ s.par.bufLen then raiseStatus s .errRange
      else finish (s.setEng e ((s.eng e).setCh x { (s.eng e).ch x with armed := true })) 0 0 := by
  simp [exec, execDmaArm]

/-- Settles O24: by the checks in their order, and the change of one channel. -/
theorem dmaArmChecksInOrder : Obligations.DmaArmChecksInOrder := by
  refine ⟨fun e x len => decode_commandWord rfl rfl, fun s e x len hc => ?_⟩
  rw [exec_dmaArm]
  split_ifs
  · exact raiseStatus_onlyResults hc .errState
  · exact raiseStatus_onlyResults hc .errBusy
  · exact raiseStatus_onlyResults hc .errRange
  · obtain ⟨t, ht, hans, honly, heng⟩ := finish_setEng hc e ((s.eng e).setCh x { (s.eng e).ch x with armed := true }) 0
    exact ⟨t, ht, hans, honly, .of_setCh heng, by rw [heng, Engine.ch_setCh_self]⟩

/-- Settles O25: the change of one channel, whose signal is the result. -/
theorem dmaAckTakesCompletion : Obligations.DmaAckTakesCompletion := by
  refine ⟨fun e x => decode_commandWord rfl rfl, fun s e x hc => ?_⟩
  obtain ⟨t, ht, hans, honly, heng⟩ := finish_setEng hc e ((s.eng e).setCh x { (s.eng e).ch x with pend := false })
    (flagWord ((s.eng e).ch x).pend)
  have hch : (t.eng e).ch x = { (s.eng e).ch x with pend := false } := by rw [heng, Engine.ch_setCh_self]
  refine ⟨t, _, ht, hans, fun hp => ?_, fun hp => ?_, honly, .of_setCh heng, hch, ?_⟩
  · rw [hp]; rfl
  · rw [hp]; rfl
  · rw [State.irq, hch, Bool.false_and]

/-- The low half of the engine status word: ten flags, and 0 above them (R40). -/
theorem Engine.getLsbD_status (g : Engine) {k : Nat} (hk : k < 16) :
    g.status.getLsbD k =
      [g.inited, g.run, g.chA.active, g.chB.active, g.chA.armed, g.chB.armed, g.chA.pend, g.chB.pend, g.chA.ie,
        g.chB.ie].getD k false := by
  unfold Engine.status bit
  simp only [BitVec.getLsbD_append]
  interval_cases k <;> simp

/-- The high half of the engine status word: POS (R40). -/
theorem Engine.extractLsb'_status (g : Engine) : g.status.extractLsb' 16 16 = BitVec.ofNat 16 g.activePos := by
  refine BitVec.eq_of_getLsbD_eq fun k hk => ?_
  unfold Engine.status
  simp only [BitVec.getLsbD_extractLsb', BitVec.getLsbD_append]
  interval_cases k <;> simp

theorem Engine.activePos_of_some {g : Engine} {x : Chan} (h : g.activeCh = some x) : g.activePos = (g.ch x).pos := by
  rw [Engine.activePos, h]

theorem Engine.activePos_of_idle {g : Engine} (ha : (g.ch .a).active = false) (hb : (g.ch .b).active = false) :
    g.activePos = 0 := by
  have hnone : g.activeCh = none := by
    rw [Engine.activeCh, show g.chA.active = false from ha, show g.chB.active = false from hb]
  rw [Engine.activePos, hnone]

/-- Settles O26: a query of the engine status word, whose fields R40 lays out. -/
theorem dmaStatusReadsEngine : Obligations.DmaStatusReadsEngine := by
  refine ⟨decodeOfEncode (.dmaStatus .out) rfl, decodeOfEncode (.dmaStatus .cap) rfl, fun s e hc => ?_⟩
  obtain ⟨t, ht, hans, honly⟩ := finish_onlyResults hc (s.eng e).status
  have hflag := fun k => (s.eng e).getLsbD_status (k := k)
  refine ⟨t, _, ht, hans, honly, hflag 0 (by decide), hflag 1 (by decide), hflag 2 (by decide), hflag 3 (by decide),
    hflag 4 (by decide), hflag 5 (by decide), hflag 6 (by decide), hflag 7 (by decide), hflag 8 (by decide),
    hflag 9 (by decide), fun k hk hk' => ?_, fun x hx ho hp => ?_, fun ha hb => ?_⟩
  · rw [hflag k (by omega)]
    exact List.getD_eq_default _ _ hk
  · rw [Engine.extractLsb'_status, Engine.activePos_of_some (Engine.activeCh_eq_some.mpr ⟨hx, ho⟩)]
    exact Nat.mod_eq_of_lt hp
  · rw [Engine.extractLsb'_status, Engine.activePos_of_idle ha hb]
    rfl

/-! ### BUF_WRITE and BUF_READ -/

theorem bufSize_eq_ite (p : Params) (e : Eng) : bufSize p e = if e = .out then 2 * p.bufLen else p.bufLen := by
  cases e <;> rfl

theorem State.bufOperand_eq_ite (s : State) (e : Eng) : s.bufOperand e = if e = .out then s.data else s.sampleOperand := by
  cases e <;> rfl

theorem bufResult_eq_ite (p : Params) (e : Eng) (v : Word) :
    bufResult p e v = if e = .out then v else sextSample p v := by
  cases e <;> rfl

/-- Settles O27: by the checks in their order, and the write of one element of one buffer. -/
theorem bufWriteStoresOwned : Obligations.BufWriteStoresOwned := by
  refine ⟨fun e x i => decode_commandWord rfl rfl, fun s e x i hc hm => ?_⟩
  have hoperand : (if e = .out then (s.port s.cur).data
      else ((s.port s.cur).data.setWidth s.par.wIn : BitVec s.par.wIn).setWidth 32) = s.bufOperand e :=
    (s.bufOperand_eq_ite e).symm
  rw [← bufSize_eq_ite, hoperand]
  simp only [exec, execBufWrite]
  split_ifs
  · exact raiseStatus_onlyResults hc .errBusy
  · exact raiseStatus_onlyResults hc .errRange
  · obtain ⟨t, ht, hans, honly, heng⟩ := finish_setEng hc e
      ((s.eng e).setBuf x (((s.eng e).buf x).write i.toNat (s.bufOperand e))) 0
    refine ⟨t, ht, hans, honly, ?_⟩
    rw [heng, Engine.buf_setBuf_self, Engine.buf_setBuf_other]
    exact ⟨Engine.inited_setBuf _ _ _, Engine.run_setBuf _ _ _, fun y => Engine.ch_setBuf _ _ _ _, rfl,
      Memory.read_write_self hm _ _, fun k hk => Memory.read_write_ne hk⟩

/-- Settles O28: by the checks in their order, and the element as the result. -/
theorem bufReadReturnsOwned : Obligations.BufReadReturnsOwned := by
  refine ⟨fun e x i => decode_commandWord rfl rfl, fun s e x i hc => ?_⟩
  have hresult : (if e = .out then ((s.eng e).buf x).read i.toNat
      else ((((s.eng e).buf x).read i.toNat).setWidth s.par.wIn : BitVec s.par.wIn).signExtend 32) =
      bufResult s.par e (((s.eng e).buf x).read i.toNat) := (bufResult_eq_ite _ _ _).symm
  rw [← bufSize_eq_ite, hresult]
  simp only [exec, execBufRead]
  split_ifs
  · obtain ⟨t, ht, hans, honly⟩ := raiseStatus_onlyResults hc .errBusy
    exact ⟨t, ht, honly, hans⟩
  · obtain ⟨t, ht, hans, honly⟩ := raiseStatus_onlyResults hc .errRange
    exact ⟨t, ht, honly, hans⟩
  · obtain ⟨t, ht, hans, honly⟩ := finish_onlyResults hc (bufResult s.par e (((s.eng e).buf x).read i.toNat))
    exact ⟨t, ht, honly, hans⟩

end Sys2Proof.Machine
end

section
/-!
SUPPORT. The proofs of the DMA engine family (41_dma_engine), second part: the element steps of engine OUT (O29) and of engine CAP
(O30), a missed re-arm (O34), and a whole transfer (O31).
-/
namespace Sys2Proof.Machine

open Sys2Proof

/-! ### Element steps -/

theorem State.outFrame_of_valid {s : State} {x : Chan} (hv : (s.outEng.ch x).valid = true) :
    s.outFrame x = readFrame (s.outEng.buf x) (s.outEng.ch x).pos := if_pos hv

/-- Settles O29: the frame is emitted, the element counted, and no buffer written. -/
theorem outElementEmits : Obligations.OutElementEmits := by
  intro s x hr hx
  obtain ⟨hemit, hfresh⟩ := outElement_emits s x
  have hsampler : (s.element .out x).sampler = s.sampler := by simp [State.element, State.outElement]
  refine ⟨s.element .out x, s.outFrame x, performMove_transfer hr hx, hemit, fun hv => ⟨s.outFrame_of_valid hv, ?_⟩,
    (element_spec s .out x).1, fun y => element_buf s .out x y, ?_⟩
  · exact hfresh.trans (by simp [hv])
  · have hstate := element_eq_setEng s .out x
    rwa [hsampler] at hstate

/-- The sampler's next word: the one the environment has ready, or a free one (R45). -/
def State.samplerWord (s : State) : Word := s.sampler.headD s.freeWord

/-- The next sample is the low `W_IN` bits of the sampler's next word (R45, R151). -/
theorem State.nextSample_eq (s : State) : s.nextSample = sampleOf s.par s.samplerWord := by
  unfold State.nextSample State.samplerWord
  split <;> simp_all

/-- An element step of CAP takes one word from the sampler (R151). -/
theorem capElement_takes (s : State) (x : Chan) :
    (s.capElement x).sampler = s.sampler.tail ∧
      (s.capElement x).fresh = if s.sampler = [] then s.fresh + 1 else s.fresh := by
  simp [State.capElement]

/-- Settles O30: the sampler gives one word, the buffer takes its sample if the transfer is valid, and the element is counted. -/
theorem capElementCaptures : Obligations.CapElementCaptures := by
  intro s x hr hx hm
  obtain ⟨hsampler, hfresh⟩ := capElement_takes s x
  have hbuf : (s.element .cap x).capEng.buf x = s.captured x := (element_buf s .cap x x).trans (if_pos ⟨rfl, rfl⟩)
  have hother : (s.element .cap x).capEng.buf (other x) = s.capEng.buf (other x) :=
    (element_buf s .cap x (other x)).trans (if_neg fun h => other_ne x h.2)
  have hserial : (s.element .cap x).serialOut = s.serialOut := capElement_serialOut s x
  refine ⟨s.element .cap x, s.samplerWord, performMove_transfer hr hx, fun r rest hs => ⟨?_, ?_, ?_⟩, fun hs => ⟨?_, ?_, ?_⟩,
    fun hv k => ?_, fun hv => ?_, hother, (element_spec s .cap x).1, ?_⟩
  · rw [State.samplerWord, hs]; rfl
  · exact hsampler.trans (by rw [hs]; rfl)
  · exact hfresh.trans (by simp [hs])
  · rw [State.samplerWord, hs]; rfl
  · exact hsampler.trans (by rw [hs]; rfl)
  · exact hfresh.trans (by simp [hs])
  · rw [hbuf, State.captured, if_pos hv, State.nextSample_eq]
    exact Memory.read_write hm _ _ _
  · rw [hbuf, State.captured, if_neg (by simp [hv])]
  · have hstate := element_eq_setEng s .cap x
    rwa [hserial] at hstate

/-! ### The chain -/

/-- The last element of a transfer makes the other channel the active one (R152). -/
theorem ElementCounted.activeCh_of_last {e : Eng} {x : Chan} {s t : State} (h : ElementCounted e x s t)
    (hl : ((s.eng e).ch x).pos + 1 = s.par.bufLen) : (t.eng e).activeCh = some (other x) := by
  obtain ⟨-, -, -, hlast⟩ := h
  obtain ⟨hself, hother, -⟩ := hlast hl
  rw [Triggered] at hother
  simp [Engine.activeCh_eq_some, hself, hother]

/-- Settles O34: the last element triggers the other channel, armed or not. -/
theorem missedRearmRecorded : Obligations.MissedRearmRecorded := by
  intro s e x hr hx hl hunarmed
  have hcount := (element_spec s e x).1
  have hact := hcount.activeCh_of_last hl
  obtain ⟨-, -, -, hlast⟩ := hcount
  obtain ⟨-, htrig, -, hmissed⟩ := hlast hl
  refine ⟨_, performMove_transfer hr hx, hmissed.mpr (.inr hunarmed), hact, ?_⟩
  rw [htrig, hunarmed]

/-! ### A whole transfer -/

/-- The first step of a run. -/
theorem core_run_succ {s u : State} (h : step s = .next u) (k : Nat) : core.run (k + 1) s = core.run k u := by
  have hcore : core.step s = .next u := h
  simp only [Host.Core.run, hcore]

/-- A valid transfer of channel `x` of a running engine OUT that has come to position `p` (R150). -/
structure OutTransfer (s : State) (x : Chan) (p : Nat) : Prop where
  run : s.outEng.run = true
  active : s.outEng.activeCh = some x
  valid : (s.outEng.ch x).valid = true
  pos : (s.outEng.ch x).pos = p

/-- One step of a transfer placed on the agenda: its frame is sent and its element counted (R150). -/
theorem OutTransfer.step {s : State} {x : Chan} {p : Nat} (h : OutTransfer s x p) {rest : List Move}
    (ha : s.agenda = .transfer .out :: rest) :
    ∃ t, step s = .next t ∧ t.serialOut = s.serialOut ++ [readFrame (s.outEng.buf x) p] ∧ ElementCounted .out x s t ∧
      (∀ y, t.outEng.buf y = s.outEng.buf y) ∧ t.par = s.par ∧ t.agenda = rest := by
  have hstep : Machine.step s = performMove (.transfer .out) { s with agenda := rest } := by
    simp only [Machine.step, State.nextMove, State.moveTaken, ha]
  obtain ⟨t, f, ht, hsent, hframe, hcount, hbuf, hstate⟩ :=
    outElementEmits { s with agenda := rest } x h.run h.active
  refine ⟨t, hstep.trans ht, ?_, hcount, hbuf, by rw [hstate], by rw [hstate]⟩
  rw [hsent, (hframe h.valid).1, h.pos]
  rfl

/-- A transfer that is not at its last element goes on (R150). -/
theorem OutTransfer.next {s t : State} {x : Chan} {p : Nat} (h : OutTransfer s x p) (hp : p + 1 ≠ s.par.bufLen)
    (hcount : ElementCounted .out x s t) : OutTransfer t x (p + 1) := by
  obtain ⟨-, hrun, hmore, -⟩ := hcount
  obtain ⟨hself, hother, -⟩ := hmore (by simpa [State.eng, h.pos] using hp)
  obtain ⟨hact, hidle⟩ := Engine.activeCh_eq_some.mp h.active
  simp only [State.eng] at hrun hself hother
  constructor
  · rw [hrun, h.run]
  · simp [Engine.activeCh_eq_some, hself, hother, hact, hidle]
  · simp [hself, h.valid]
  · simp [hself, h.pos]

/-- From position `p` on, the `n` steps that are left send the frames that are left, and hand over to the other channel (R150,
R152, R181). -/
theorem OutTransfer.run_to_end {n : Nat} {s : State} {x : Chan} {p : Nat} (h : OutTransfer s x p) (hn : p + n = s.par.bufLen)
    (hpos : 0 < n) {rest : List Move} (ha : s.agenda = List.replicate n (.transfer .out) ++ rest) :
    ∃ t, core.run n s = .next t ∧
      t.serialOut = s.serialOut ++ (List.range' p n).map (readFrame (s.outEng.buf x)) ∧
      t.outEng.activeCh = some (other x) ∧ (t.outEng.ch x).pend = true ∧ (t.outEng.ch (other x)).pos = 0 ∧
      (∀ y, t.outEng.buf y = s.outEng.buf y) ∧ t.agenda = rest := by
  induction n generalizing s p with
  | zero => cases hpos
  | succ n ih =>
    obtain ⟨u, hu, hsent, hcount, hbuf, hpar, hagenda⟩ := h.step ha
    rw [core_run_succ hu]
    by_cases hlast : n = 0
    · subst hlast
      have hl : ((s.eng .out).ch x).pos + 1 = s.par.bufLen := by rw [← hn, ← h.pos]; rfl
      have hact := hcount.activeCh_of_last hl
      obtain ⟨-, -, -, hdone⟩ := hcount
      obtain ⟨hself, htrig, -⟩ := hdone hl
      exact ⟨u, rfl, hsent, hact, congrArg Channel.pend hself, congrArg Channel.pos htrig, hbuf, hagenda⟩
    · obtain ⟨t, ht, hrest, hend⟩ := ih (h.next (by omega) hcount) (by rw [hpar]; omega) (by omega) hagenda
      rw [hsent, hbuf, List.append_assoc] at hrest
      simp only [hbuf] at hend
      exact ⟨t, ht, hrest, hend⟩

/-- Settles O31: the transfer runs from position 0 to its end. -/
theorem transferSendsBuffer : Obligations.TransferSendsBuffer := by
  intro s x rest h hr hx hv hp
  obtain ⟨-, -, -, -, hS, -⟩ := (Params.legal_iff _).mp h.legal
  have htransfer : OutTransfer { s with agenda := List.replicate s.par.bufLen (.transfer .out) ++ rest } x 0 :=
    ⟨hr, hx, hv, hp⟩
  rw [List.range_eq_range']
  exact htransfer.run_to_end (Nat.zero_add _) hS rfl

end Sys2Proof.Machine
end

section
/-!
SUPPORT. The proofs of the block control and converter family (42_format_feeder), first part: NOP (O7), BLK_STATUS (O8), BLK_CLEAR
(O9), CVT (O35) and the conversion function (O36).
-/
namespace Sys2Proof.Machine

open Sys2Proof

/-! ### NOP and BLK_STATUS -/

/-- Settles O7: a query that returns nothing. -/
theorem nopCompletes : Obligations.NopCompletes :=
  ⟨decodeOfEncode .nop rfl, fun _ hc => finish_onlyResults hc 0⟩

/-- The block status word: two sticky bits, four interrupt lines, and 0 above them (R36). -/
theorem State.getLsbD_blockStatus (s : State) (k : Nat) :
    s.blockStatus.getLsbD k =
      [s.starved, s.overrun, s.irq .out .a, s.irq .out .b, s.irq .cap .a, s.irq .cap .b].getD k false := by
  unfold State.blockStatus bit
  simp only [BitVec.getLsbD_append]
  match k with
  | 0 | 1 | 2 | 3 | 4 | 5 => simp
  | k + 6 => simp

/-- Settles O8: a query of the block status word, whose bits R36 lays out. -/
theorem blkStatusReadsLines : Obligations.BlkStatusReadsLines := by
  refine ⟨decodeOfEncode .blkStatus rfl, fun s hc => ?_⟩
  obtain ⟨t, ht, hans, honly⟩ := finish_onlyResults hc s.blockStatus
  have hbit := s.getLsbD_blockStatus
  exact ⟨t, _, ht, hans, honly, hbit 0, hbit 1, hbit 2, hbit 3, hbit 4, hbit 5,
    fun k hk => (hbit k).trans (List.getD_eq_default _ _ hk)⟩

/-! ### BLK_CLEAR -/

/-- BLK_CLEAR's row fixes every bit of the mask above the two low ones to 0 (R86, R172). -/
theorem exists_row_blkClear : ∃ r ∈ opcodeTable, opField r.pat = 0x02#8 ∧
    ∀ k, k < 16 → 2 ≤ k → r.mask.getLsbD (16 + k) = true ∧ r.pat.getLsbD (16 + k) = false :=
  ⟨blockRows[2], List.mem_append_left _ (List.getElem_mem _), rfl, by decide⟩

/-- A mask with a bit above the two low ones is illegal (R88, R172). -/
theorem decode_blkClear_of_le {m : BitVec 16} (h : 4 ≤ m.toNat) :
    ∃ why, decode (commandWord m .out .a 0x02) = .error why := by
  obtain ⟨k, hk, hbit⟩ := Nat.exists_ge_and_testBit_of_ge_two_pow (n := 2) h
  have hlt : k < 16 := BitVec.lt_of_getLsbD hbit
  obtain ⟨r, hr, hop, hfixed⟩ := exists_row_blkClear
  obtain ⟨hmask, hpat⟩ := hfixed k hlt hk
  refine illegalWordRefused.1 _ (.inr (.inr (.inr (.inr (.inr ⟨r, hr, ?_, 16 + k, hmask, hpat, ?_⟩)))))
  · rw [commandWord_eq, opField_encodeFields, hop]; rfl
  · rw [commandWord_eq, getLsbD_encodeFields, if_neg (by omega), if_neg (by omega), if_neg (by omega), if_neg (by omega),
      Nat.add_sub_cancel_left]
    exact hbit

/-- Settles O9: the two legal bits of the mask, and the change of the two sticky bits. -/
theorem blkClearClearsSticky : Obligations.BlkClearClearsSticky := by
  refine ⟨fun m hm => decode_commandWord (decide_eq_true hm) rfl, fun m hm => decode_blkClear_of_le hm,
    fun s m hc => ?_⟩
  obtain ⟨hans, hports⟩ := State.completeOn_spec (s := s) (u := s.clearSticky m) rfl hc .ok 0 0
  refine ⟨_, rfl, hans, fun h => ?_, fun h => ?_, fun h => ?_, fun h => ?_, rfl, hports⟩
  · rw [State.completeOn_starved, State.clearSticky_starved, h, Bool.not_true, Bool.and_false]
  · rw [State.completeOn_starved, State.clearSticky_starved, h, Bool.not_false, Bool.and_true]
  · rw [State.completeOn_overrun, State.clearSticky_overrun, h, Bool.not_true, Bool.and_false]
  · rw [State.completeOn_overrun, State.clearSticky_overrun, h, Bool.not_false, Bool.and_true]

/-! ### CVT and the conversion -/

/-- Settles O35: a query of the conversion, whose two words are one. -/
theorem cvtDuplicatesWidened : Obligations.CvtDuplicatesWidened := by
  refine ⟨decodeOfEncode .cvt rfl, fun s hc => ?_⟩
  have hwiden : widen s.par s.sampleOperand = widen s.par s.data := widen_sampleOf s.par s.data
  obtain ⟨hans, honly⟩ := State.completeOn_onlyResults hc .ok (widen s.par s.sampleOperand) (widen s.par s.sampleOperand)
  exact ⟨_, _, rfl, hans, honly, hwiden⟩

/-- The shift drops the bits in which the zero extension and the sign extension differ (R173). -/
theorem widen_eq_sextSample_shiftLeft {p : Params} (h : p.wIn ≤ 32) (v : Word) :
    widen p v = sextSample p v <<< (32 - p.wIn) := by
  refine BitVec.eq_of_getLsbD_eq fun k hk => ?_
  have hlow : k - (32 - p.wIn) < p.wIn ∨ k < 32 - p.wIn := by omega
  rcases hlow with hlow | hlow
  · simp [widen, sextSample, sampleOf, BitVec.getLsbD_signExtend, hlow]
  · simp [widen, sextSample, hlow]

/-- A number of `w` bits, placed at the top of `n` bits, keeps its sign and is scaled by the shift. -/
theorem toInt_setWidth_shiftLeft {w n : Nat} (h : w ≤ n) (x : BitVec w) :
    (x.setWidth n <<< (n - w)).toInt = x.toInt * 2 ^ (n - w) := by
  have hpow : 2 ^ n = 2 ^ w * 2 ^ (n - w) := by rw [← pow_add, Nat.add_sub_cancel' h]
  have hpos : 0 < 2 ^ (n - w) := Nat.two_pow_pos _
  have hlt : x.toNat * 2 ^ (n - w) < 2 ^ n := hpow ▸ Nat.mul_lt_mul_of_pos_right x.isLt hpos
  have hnat : (x.setWidth n <<< (n - w)).toNat = x.toNat * 2 ^ (n - w) := by
    rw [BitVec.toNat_shiftLeft, BitVec.toNat_setWidth_of_le h, Nat.shiftLeft_eq, Nat.mod_eq_of_lt hlt]
  have hsign : 2 * (x.toNat * 2 ^ (n - w)) < 2 ^ n ↔ 2 * x.toNat < 2 ^ w := by
    rw [hpow, ← Nat.mul_assoc, Nat.mul_lt_mul_right hpos]
  rw [BitVec.toInt_eq_toNat_cond, BitVec.toInt_eq_toNat_cond, hnat, if_congr hsign rfl rfl, hpow]
  split_ifs <;> push_cast <;> ring

/-- Settles O36: both spellings drop the extension, and the shift scales the signed sample. -/
theorem widenScalesSigned : Obligations.WidenScalesSigned := by
  intro p v _ hw
  refine ⟨rfl, widen_eq_sextSample_shiftLeft hw v, toInt_setWidth_shiftLeft hw _, ?_⟩
  simp [convert, silence, widen, sampleOf]

end Sys2Proof.Machine
end

section
/-!
SUPPORT. The proofs of the block control and converter family (42_format_feeder), second part, the feeder: FEED's start step (O37),
an element step (O38), FEED's two ends (O39), a whole FEED (O40), and its end under weak fairness (O54).
-/
namespace Sys2Proof.Machine

open Sys2Proof

/-! ### FEED's start step -/

/-- While a FEED is in progress another one waits (R177). -/
theorem exec_feed_of_busy {s : State} (hb : s.feeder.busy = true) (x : Chan) :
    exec (.feed x) s = .next (s.readSide.hold x) := by
  simp [exec, execFeed, hb]

/-- FEED of a buffer in flight is refused (R177). -/
theorem exec_feed_of_active {s : State} {x : Chan} (hb : s.feeder.busy = false) (ha : (s.outEng.ch x).active = true) :
    exec (.feed x) s = .next (s.readSide.completeOn s.cur (statusCode .errBusy) 0 0) := by
  simp [exec, execFeed, hb, ha, raiseStatus]

/-- FEED of a buffer that is not in flight starts the feeder (R177). -/
theorem exec_feed_of_idle {s : State} {x : Chan} (hb : s.feeder.busy = false) (ha : (s.outEng.ch x).active = false) :
    exec (.feed x) s = .next (s.readSide.startFeed x) := by
  simp [exec, execFeed, hb, ha]

/-- Settles O37: the read-side check, and then the wait, the refusal or the start. -/
theorem feedStarts : Obligations.FeedStarts := by
  refine ⟨fun x => decode_commandWord rfl rfl, fun x => by cases x <;> exact ⟨_, rfl⟩, fun s x hc => ?_⟩
  cases hb : s.feeder.busy with
  | true =>
    exact ⟨_, exec_feed_of_busy hb x, .of_readSide rfl,
      fun _ => ⟨rfl, State.port_setPort_self hc _, fun p hp => State.port_setPort_ne hp _⟩, nofun, nofun⟩
  | false =>
    cases ha : (s.outEng.ch x).active with
    | true =>
      obtain ⟨hans, hports⟩ := State.completeOn_spec (u := s.readSide) rfl hc .errBusy 0 0
      exact ⟨_, exec_feed_of_active hb ha, .of_readSide rfl, nofun, fun _ _ => ⟨hans, hports, rfl⟩, nofun⟩
    | false =>
      exact ⟨_, exec_feed_of_idle hb ha, .of_readSide rfl, nofun, nofun, fun _ _ => ⟨rfl, rfl⟩⟩

/-! ### An element step of the feeder -/

/-- The feeder's read of the ring changes the read cursor and the count of free values at most (R178). -/
theorem State.afterFeedRead_eq (s : State) :
    s.afterFeedRead = { s with rd := s.afterFeedRead.rd, fresh := s.afterFeedRead.fresh } := by
  unfold State.afterFeedRead
  split
  · rw [State.afterRingRead_eq]
  · rfl

/-- A feeder step on a buffer in flight ends the FEED (R178). -/
theorem feederStep_of_active {s : State} (ha : (s.outEng.ch s.feeder.ch).active = true) : s.feederStep = s.feedAbort :=
  if_pos ha

/-- An element step that is not the last (R178). -/
theorem feederStep_of_not_last {s : State} (ha : (s.outEng.ch s.feeder.ch).active = false)
    (hl : s.feeder.i + 1 ≠ s.par.bufLen) : s.feederStep = s.feedElement := by
  rw [State.feederStep, if_neg (by simp [ha]), if_neg hl]

/-- The last element step is followed by FEED's end (R178, R179). -/
theorem feederStep_of_last {s : State} (ha : (s.outEng.ch s.feeder.ch).active = false)
    (hl : s.feeder.i + 1 = s.par.bufLen) : s.feederStep = s.feedElement.feedEnd := by
  rw [State.feederStep, if_neg (by simp [ha]), if_pos hl]

/-- The element step proper reads the ring, stores a frame and counts the element (R178). -/
theorem State.feedElement_eq (s : State) :
    s.feedElement = { s with
      rd := s.afterFeedRead.rd, fresh := s.afterFeedRead.fresh
      outEng := s.outEng.setBuf s.feeder.ch (writeFrame (s.outEng.buf s.feeder.ch) s.feeder.i s.feedFrame)
      feeder := { s.feeder with i := s.feeder.i + 1 } } := by
  unfold State.feedElement
  rw [s.afterFeedRead_eq]

/-- What an element step changes. FEED's end, if it follows, writes the port and STARVED, and makes the feeder idle (R178,
R179). -/
theorem feederStep_eq {s : State} (hb : s.feeder.busy = true) (ha : (s.outEng.ch s.feeder.ch).active = false) :
    s.feederStep = { s with
      ports := s.feederStep.ports, starved := s.feederStep.starved, rd := s.afterFeedRead.rd, fresh := s.afterFeedRead.fresh
      outEng := s.outEng.setBuf s.feeder.ch (writeFrame (s.outEng.buf s.feeder.ch) s.feeder.i s.feedFrame)
      feeder := { s.feeder with i := s.feeder.i + 1, busy := decide (s.feeder.i + 1 ≠ s.par.bufLen) } } := by
  by_cases hl : s.feeder.i + 1 = s.par.bufLen
  · rw [feederStep_of_last ha hl, State.feedElement_eq, decide_eq_false (not_not.mpr hl)]
    rfl
  · rw [feederStep_of_not_last ha hl, State.feedElement_eq, decide_eq_true hl, ← hb]

/-- Settles O38: the abort, or the frame that an element step stores. -/
theorem feederWritesFrame : Obligations.FeederWritesFrame := by
  intro s hb hm
  refine ⟨s.feederStep, s.ringSample, performMove_feeder hb, fun ha => ?_, fun ha => ?_⟩
  · rw [feederStep_of_active ha]; rfl
  have hstep := feederStep_eq hb ha
  have hrd : s.feederStep.rd = s.afterFeedRead.rd := (congrArg State.rd hstep :)
  have hfresh : s.feederStep.fresh = s.afterFeedRead.fresh := (congrArg State.fresh hstep :)
  have hout : s.feederStep.outEng = _ := (congrArg State.outEng hstep :)
  refine ⟨fun hi => ⟨?_, fun hne => ?_⟩, fun hi => ⟨?_, ?_⟩, fun k => ?_, ?_, fun y => ?_, ?_, ?_,
    congrArg State.feeder hstep, fun hl => ?_, ?_⟩
  · simp [hrd, hi]
  · have hempty : ¬ s.ringEmpty = true := mt State.ringEmpty_iff.mp hne
    exact ⟨if_neg hempty, by simp [hfresh, hempty]⟩
  · simp [hrd, Nat.not_lt_of_le hi]
  · simp [hfresh, Nat.not_lt_of_le hi]
  · rw [hout, Engine.buf_setBuf_self, readFrame_writeFrame hm]
    rfl
  · rw [hout, Engine.buf_setBuf_other]
  · rw [hout, Engine.ch_setBuf]
  · rw [hout, Engine.inited_setBuf]
  · rw [hout, Engine.run_setBuf]
  · rw [feederStep_of_not_last ha hl]
    simp [State.feedElement]
  · rw [hstep]

/-! ### FEED's two ends -/

theorem flagWord_decide (P : Prop) [Decidable P] : flagWord (decide P) = if P then 1 else 0 := by simp [flagWord]

/-- What FEED's normal end writes to its port (R179). -/
theorem State.port_feedEnd_self {s : State} (h : s.feeder.port < s.ports.length) :
    s.feedEnd.port s.feeder.port = { s.port s.feeder.port with
      res := countWord s.feeder.n, res2 := if s.feeder.n < s.par.bufLen then 1 else 0, stat := 0 } := by
  rw [← flagWord_decide]
  exact State.port_setPort_self h _

theorem State.port_feedEnd_ne {s : State} {p : Nat} (h : p ≠ s.feeder.port) : s.feedEnd.port p = s.port p :=
  State.port_setPort_ne h _

/-- What FEED's abort writes to its port (R179). -/
theorem State.port_feedAbort_self {s : State} (h : s.feeder.port < s.ports.length) :
    s.feedAbort.port s.feeder.port = { s.port s.feeder.port with
      res := countWord (min s.feeder.i s.feeder.n), res2 := 0, stat := 3 } :=
  State.port_setPort_self h _

theorem State.port_feedAbort_ne {s : State} {p : Nat} (h : p ≠ s.feeder.port) : s.feedAbort.port p = s.port p :=
  State.port_setPort_ne h _

/-- The element step proper writes no register of a port (R178). -/
@[simp] theorem State.feedElement_ports (s : State) : s.feedElement.ports = s.ports := s.afterFeedRead_ports

@[simp] theorem State.feedElement_par (s : State) : s.feedElement.par = s.par := s.afterFeedRead_par

@[simp] theorem State.feedElement_starved (s : State) : s.feedElement.starved = s.starved := s.afterFeedRead_starved

@[simp] theorem State.feedElement_feeder (s : State) : s.feedElement.feeder = { s.feeder with i := s.feeder.i + 1 } := rfl

/-- FEED's normal end marks STARVED if real samples were missing (R179). -/
@[simp] theorem State.feedEnd_starved (s : State) :
    s.feedEnd.starved = (s.starved || decide (s.feeder.n < s.par.bufLen)) := rfl

/-- Settles O39: by the element step and FEED's end, or by its abort. -/
theorem feedEndsOrAborts : Obligations.FeedEndsOrAborts := by
  intro s hb hp
  have hport := State.port_congr s.feedElement_ports
  refine ⟨s.feederStep, performMove_feeder hb, fun ha hl => ?_, fun ha => ?_⟩
  · rw [feederStep_of_last ha hl]
    have hself := State.port_feedEnd_self (s := s.feedElement) (s.feedElement_ports ▸ hp)
    rw [hport, State.feedElement_par] at hself
    exact ⟨rfl, hself, fun p hne => by rw [← hport]; exact State.port_feedEnd_ne hne, by simp⟩
  · rw [feederStep_of_active ha]
    exact ⟨State.port_feedAbort_self hp, fun p hne => State.port_feedAbort_ne hne, rfl⟩

/-! ### A whole FEED -/

/-- The schedule and the count of free values taken are no part of the invariant. -/
theorem State.Inv.withSchedule {s : State} (h : s.Inv) (l : List Move) (n : Nat) :
    ({ s with agenda := l, fresh := n } : State).Inv :=
  { h with
    mem := { h.mem with bufWf := fun | .out => h.mem.bufWf .out | .cap => h.mem.bufWf .cap }
    feed := { h.feed with } }

/-- A step makes the first move of the agenda. -/
theorem step_of_agenda {s : State} {m : Move} {rest : List Move} (h : s.agenda = m :: rest) :
    step s = performMove m { s with agenda := rest } := by
  simp only [step, State.nextMove, State.moveTaken, h]

/-- Frame `k` of a whole FEED from `s`: the `k`-th unread sample converted, and silence after the last (R180). -/
def State.fedFrame (s : State) (k : Nat) : Frame :=
  if k < s.ringLength then convert s.par (s.ring.read ((s.rd + k) % s.par.capacity)) else ⟨0, 0⟩

/-- The state of a FEED of buffer `x`, started in `s`, after `i` element steps and no other agent's step. -/
structure Fed (s : State) (x : Chan) (i : Nat) (t : State) : Prop where
  inv : t.Inv
  par : t.par = s.par
  ring : t.ring = s.ring
  wr : t.wr = s.wr
  rd : t.rd = (s.rd + min i s.ringLength) % s.par.capacity
  fresh : t.fresh = s.fresh
  feeder : t.feeder = ⟨decide (i ≠ s.par.bufLen), s.cur, x, min s.par.bufLen s.ringLength, i⟩
  idle : (t.outEng.ch x).active = false
  frames : ∀ k, k < i → readFrame (t.outEng.buf x) k = s.fedFrame k
  going : i ≠ s.par.bufLen → t.ports = s.ports ∧ t.starved = s.starved
  ended : i = s.par.bufLen → (t.port s.cur).stat = 0 ∧
    (t.port s.cur).res = BitVec.ofNat 32 (min s.par.bufLen s.ringLength) ∧
    (t.port s.cur).res2 = (if s.ringLength < s.par.bufLen then 1 else 0) ∧
    (t.starved = true ↔ s.starved = true ∨ s.ringLength < s.par.bufLen)

/-- FEED's start step, before any element step (R177). -/
theorem Fed.start {s : State} {x : Chan} (h : s.Inv) (ha : (s.outEng.ch x).active = false) (l : List Move) :
    Fed s x 0 { s.readSide.startFeed x with agenda := l } := by
  obtain ⟨-, -, -, -, hS, -⟩ := (Params.legal_iff _).mp h.legal
  have hne : 0 ≠ s.par.bufLen := by omega
  exact {
    inv := (h.readSide.startFeed x).withSchedule l s.fresh
    par := rfl, ring := rfl, wr := rfl, fresh := rfl, idle := ha
    rd := by simp [Nat.mod_eq_of_lt h.rd]
    feeder := by rw [decide_eq_true hne]; rfl
    frames := nofun
    going := fun _ => ⟨rfl, rfl⟩
    ended := fun he => absurd he hne }

/-- While unread samples are left, the read cursor of a FEED has not come to the write cursor (R34). -/
theorem Fed.rd_ne_wr {s t : State} {x : Chan} {i : Nat} (h : Fed s x i t) (hs : s.Inv) (hi : i < s.ringLength) :
    t.rd ≠ t.wr := by
  have hlt := State.ringLength_lt hs.wr hs.rd
  have hmod := mod_ne_add_mod (C := s.par.capacity) (i := s.ringLength - i) (by omega) (by omega) (s.rd + i)
  rw [h.rd, h.wr, Nat.min_eq_left hi.le, ← State.rd_add_ringLength_mod hs.wr hs.rd]
  rwa [Nat.add_assoc, Nat.add_sub_cancel' hi.le] at hmod

/-- The agenda is no part of a FEED's progress. -/
theorem Fed.withAgenda {s t : State} {x : Chan} {i : Nat} (h : Fed s x i t) (l : List Move) :
    Fed s x i { t with agenda := l } :=
  { h with inv := h.inv.withSchedule l t.fresh }

/-- The feeder reads the ring while unread samples of the start are left (R177, R178). -/
theorem Fed.reads_iff {s t : State} {x : Chan} {i : Nat} (h : Fed s x i t) (hi : i < s.par.bufLen) :
    t.feeder.i < t.feeder.n ↔ i < s.ringLength := by
  rw [h.feeder]
  exact Nat.lt_min.trans (and_iff_right hi)

/-- The feeder takes no draw: what it reads was unread at the start (R177, R180). -/
theorem Fed.ringEmpty_eq_false {s t : State} {x : Chan} {i : Nat} (h : Fed s x i t) (hs : s.Inv) (hi : i < s.ringLength) :
    t.ringEmpty = false :=
  Bool.eq_false_iff.mpr (mt State.ringEmpty_iff.mp (h.rd_ne_wr hs hi))

/-- The frame an element step writes (R178, R180). -/
theorem Fed.feedFrame_eq {s t : State} {x : Chan} {i : Nat} (h : Fed s x i t) (hs : s.Inv) (hi : i < s.par.bufLen) :
    t.feedFrame = s.fedFrame i := by
  rw [State.feedFrame, State.fedFrame, if_congr (h.reads_iff hi) rfl rfl]
  split_ifs with hlen
  · rw [State.ringSample, h.ringEmpty_eq_false hs hlen, if_neg Bool.false_ne_true, h.par, h.ring, h.rd,
      Nat.min_eq_left hlen.le]
  · rfl

/-- The ring after an element step: at most the next unread sample is read, and no free value taken (R178, R180). -/
theorem Fed.afterFeedRead {s t : State} {x : Chan} {i : Nat} (h : Fed s x i t) (hs : s.Inv) (hi : i < s.par.bufLen) :
    t.afterFeedRead.rd = (s.rd + min (i + 1) s.ringLength) % s.par.capacity ∧ t.afterFeedRead.fresh = s.fresh := by
  simp only [State.afterFeedRead_rd, State.afterFeedRead_fresh, h.rd, h.fresh, h.par, h.reads_iff hi]
  by_cases hlen : i < s.ringLength
  · rw [h.ringEmpty_eq_false hs hlen, Nat.min_eq_left hlen.le, Nat.min_eq_left hlen]
    simp [hlen, Nat.add_assoc]
  · rw [Nat.min_eq_right (by omega), Nat.min_eq_right (by omega)]
    simp [hlen]

/-- One element step of a FEED (R178, R179). -/
theorem Fed.succ {s t : State} {x : Chan} {i : Nat} (h : Fed s x i t) (hs : s.Inv) (hi : i < s.par.bufLen) :
    ∃ u, performMove .feeder t = .next u ∧ Fed s x (i + 1) u ∧ u.agenda = t.agenda := by
  have hb : t.feeder.busy = true := by rw [h.feeder]; exact decide_eq_true hi.ne
  have ha : (t.outEng.ch t.feeder.ch).active = false := by rw [h.feeder]; exact h.idle
  obtain ⟨hrd, hfresh⟩ := h.afterFeedRead hs hi
  have hstep := feederStep_eq hb ha
  simp only [hrd, hfresh, h.feedFrame_eq hs hi, h.feeder, h.par] at hstep
  obtain ⟨u, hu, hend, -⟩ := feedEndsOrAborts t hb (h.inv.ports ▸ h.inv.feed.port hb)
  obtain rfl : t.feederStep = u := Host.Outcome.next.inj ((performMove_feeder hb).symm.trans hu)
  obtain ⟨hports, hstarved⟩ := h.going hi.ne
  have hwf : (t.outEng.buf x).wf = true := h.inv.mem.bufWf .out x
  refine ⟨_, hu, ⟨performMove_keeps_inv h.inv hu, ?_, ?_, ?_, ?_, ?_, ?_, ?_, fun k hk => ?_, fun hl => ?_, fun hl => ?_⟩, ?_⟩
  · rw [hstep]
  · rw [hstep]; exact h.ring
  · rw [hstep]; exact h.wr
  · rw [hstep]
  · rw [hstep]
  · rw [hstep]
  · rw [hstep, Engine.ch_setBuf]; exact h.idle
  · rw [hstep, Engine.buf_setBuf_self, readFrame_writeFrame hwf]
    split_ifs with hki
    · rw [hki]
    · exact h.frames k (by omega)
  · rw [← hports, ← hstarved, feederStep_of_not_last ha (by rwa [h.feeder, h.par])]
    exact ⟨t.feedElement_ports, t.feedElement_starved⟩
  · obtain ⟨-, hport, -, hst⟩ := hend ha (by rwa [h.feeder, h.par])
    simp only [h.feeder, h.par] at hport hst
    rw [hport, hst, hstarved]
    simp
  · rw [hstep]

/-- The element steps that are left of a FEED, placed on the agenda (R178). -/
theorem Fed.run {n : Nat} {s t : State} {x : Chan} {i : Nat} (h : Fed s x i t) (hs : s.Inv) (hn : i + n = s.par.bufLen)
    {rest : List Move} (ha : t.agenda = List.replicate n .feeder ++ rest) :
    ∃ u, core.run n t = .next u ∧ Fed s x s.par.bufLen u ∧ u.agenda = rest := by
  induction n generalizing t i with
  | zero => exact ⟨t, rfl, hn ▸ h, ha⟩
  | succ n ih =>
    obtain ⟨u, hu, hfed, hagenda⟩ := (h.withAgenda (List.replicate n .feeder ++ rest)).succ hs (by omega)
    rw [core_run_succ ((step_of_agenda ha).trans hu)]
    exact ih hfed (by omega) hagenda

/-- Settles O40: FEED starts, and its element steps run to its end. -/
theorem feedFillsWithSilence : Obligations.FeedFillsWithSilence := by
  intro s x rest hs hb ha
  obtain ⟨t, ht, hfed, hagenda⟩ := (Fed.start hs ha (List.replicate s.par.bufLen .feeder ++ rest)).run hs
    (Nat.zero_add _) rfl
  obtain ⟨hstat, hres, hres2, hstarved⟩ := hfed.ended rfl
  exact ⟨_, t, exec_feed_of_idle hb ha, ht, hfed.frames, hfed.rd, hfed.fresh, by simp [hfed.feeder], hstat, hres, hres2,
    hstarved, hagenda⟩

/-! ### The end of a FEED under weak fairness -/

/-- No command changes the progress of a FEED (R80, R177). -/
theorem exec_feeder_of_busy {i : Instr} {s t : State} (h : exec i s = .next t) (hb : s.feeder.busy = true) :
    t.feeder = s.feeder := by
  rcases exec_cases h with ⟨c, u, r, r2, he, rfl, -⟩ | ⟨x, -, -, rfl⟩ | ⟨x, -, hidle, -⟩
  · obtain ⟨-, -, -, -, -, -, -, hfeeder⟩ := effect_kept he
    exact hfeeder
  · rfl
  · simp [hb] at hidle

/-- A transfer agent changes nothing of a FEED (R150, R151). -/
theorem element_feeder (s : State) (e : Eng) (x : Chan) : (s.element e x).feeder = s.feeder := by
  obtain ⟨-, -, -, -, -, -, -, hfeeder, -⟩ := element_kept s e x
  exact hfeeder

/-- An element step counts its element unless it ends the FEED (R178, R179). -/
theorem feederStep_i_of_busy {s : State} (h : s.feederStep.feeder.busy = true) :
    s.feederStep.feeder.i = s.feeder.i + 1 := by
  unfold State.feederStep at h ⊢
  split_ifs at h ⊢
  · cases h
  · cases h
  · rfl

/-- While a FEED goes on, a move of the feeder counts one element, and no other move changes the count (R43, R178). -/
theorem performMove_feeder_i {m : Move} {s t : State} (h : performMove m s = .next t) (hb : s.feeder.busy = true)
    (hb' : t.feeder.busy = true) : t.feeder.i = if m = .feeder then s.feeder.i + 1 else s.feeder.i := by
  split_ifs with hm
  · subst hm
    rw [performMove_feeder hb] at h
    cases h
    exact feederStep_i_of_busy hb'
  · refine congrArg Feeder.i ?_
    cases performMove_cases h with
    | exec p data w i hc ht => exact exec_feeder_of_busy (s := s.issued p data w) ht hb
    | resume p x hh hidle => simp [hb] at hidle
    | feeder hm' => exact absurd hm' hm
    | element e x => exact element_feeder s e x
    | _ => rfl

/-- Every state of a run that starts from a state that meets the invariant meets it. -/
theorem IsRun.inv {moves : Nat → Move} {r : Nat → State} (h : IsRun moves r) (h0 : (r 0).Inv) (k : Nat) : (r k).Inv := by
  induction k with
  | zero => exact h0
  | succ k ih =>
    obtain ⟨l, n, hk⟩ := h.performs k
    exact performMove_keeps_inv (ih.withSchedule l n) hk

/-- In a run in which a FEED never ends, each move of the feeder counts one element, and nothing else changes the count. -/
theorem IsRun.feeder_i {moves : Nat → Move} {r : Nat → State} (h : IsRun moves r) (hb : ∀ k, (r k).feeder.busy = true)
    (k : Nat) : (r (k + 1)).feeder.i = if moves k = .feeder then (r k).feeder.i + 1 else (r k).feeder.i := by
  obtain ⟨l, n, hk⟩ := h.performs k
  exact performMove_feeder_i (s := { r k with agenda := l, fresh := n }) hk (hb k) (hb (k + 1))

/-- In a fair run in which a FEED never ends the count of its elements grows past every bound. -/
theorem WeaklyFair.feeder_i_unbounded {moves : Nat → Move} {r : Nat → State} (hf : WeaklyFair moves r) (h : IsRun moves r)
    (hb : ∀ k, (r k).feeder.busy = true) (n : Nat) : ∃ k, n ≤ (r k).feeder.i := by
  have hmono : Monotone fun k => (r k).feeder.i := monotone_nat_of_le_succ fun k => by
    rw [h.feeder_i hb k]; split <;> omega
  induction n with
  | zero => exact ⟨0, Nat.zero_le _⟩
  | succ n ih =>
    obtain ⟨k, hk⟩ := ih
    obtain ⟨j, hj, hm⟩ := hf.feeds fun j (_ : k ≤ j) => hb j
    have hle : (r k).feeder.i ≤ (r j).feeder.i := hmono hj
    refine ⟨j + 1, ?_⟩
    rw [h.feeder_i hb j, if_pos hm]
    omega

/-- Settles O54: a FEED that never ended would count more elements than its buffer has. -/
theorem feedInProgressEnds : Obligations.FeedInProgressEnds := by
  intro moves r h hf h0
  by_contra hnever
  have hb : ∀ k, (r k).feeder.busy = true := by simpa using hnever
  obtain ⟨k, hk⟩ := hf.feeder_i_unbounded h hb 32767
  have hinv := h.inv h0 k
  obtain ⟨-, -, -, -, -, hS, -⟩ := (Params.legal_iff _).mp hinv.legal
  have := hinv.feed.done (hb k)
  omega

end Sys2Proof.Machine
end

section
/-!
SUPPORT. The proofs of the exceptions family (60_exceptions): what an error leaves unchanged (O45), and the statuses each command
can end with (O46).
-/
namespace Sys2Proof.Machine

open Sys2Proof

/-! ### Completion -/

theorem statusCode_eq_zero_iff {c : Status} : statusCode c = 0 ↔ c = .ok := by
  cases c <;> decide

/-- Without a violation the check of a ring command leaves the state as it is. -/
theorem State.noteSpsc_false (s : State) : s.noteSpsc false = s := by
  simp [State.noteSpsc]

/-- A command that is no FEED that starts or holds completes, with the status of its effect (R80, R177). -/
theorem exec_completes {i : Instr} {s t : State} (hc : s.cur < s.ports.length) (h : exec i s = .next t)
    (hfeed : ∀ x, i = .feed x → s.feeder.busy = false ∧ (s.outEng.ch x).active = true) :
    ∃ c u r r2, Effect s i c u ∧ t = u.completeOn s.cur (statusCode c) r r2 ∧ Answers s t c r r2 ∧ PortsKept s t ∧
      (c ≠ .ok → r = 0 ∧ r2 = 0) := by
  rcases exec_cases h with ⟨c, u, r, r2, he, rfl, hzero⟩ | ⟨x, hi, hbusy, -⟩ | ⟨x, hi, -, hidle, -⟩
  · obtain ⟨-, hports, -⟩ := effect_kept he
    obtain ⟨hans, hkept⟩ := State.completeOn_spec hports hc c r r2
    exact ⟨c, u, r, r2, he, rfl, hans, hkept, hzero⟩
  · obtain ⟨hfree, -⟩ := hfeed x hi
    simp [hfree] at hbusy
  · obtain ⟨-, hactive⟩ := hfeed x hi
    simp [hactive] at hidle

/-! ### What an error changes -/

/-- The effect of a refused command is at most the mark of the SPSC check, which comes before the status checks (R201). -/
theorem Effect.eq_noteSpsc_of_ne_ok {s u : State} {i : Instr} {c : Status} (h : Effect s i c u) (hc : c ≠ .ok) :
    ∃ b, u = s.noteSpsc b := by
  cases h with
  | none => exact ⟨false, s.noteSpsc_false.symm⟩
  | storeRefused => exact ⟨_, rfl⟩
  | feedRefused => exact ⟨_, rfl⟩
  | _ => exact absurd rfl hc

/-- Settles O45: an error's effect is the SPSC check's alone, and its completion writes zeros to its own port. -/
theorem errorsChangeNothing : Obligations.ErrorsChangeNothing := by
  intro i s t hcur h hstat hfeed
  obtain ⟨c, u, r, r2, he, rfl, ⟨hcode, hres, hres2⟩, hports, hzero⟩ := exec_completes hcur h hfeed
  have hc : c ≠ .ok := by rwa [hcode, ne_eq, statusCode_eq_zero_iff] at hstat
  obtain ⟨rfl, rfl⟩ := hzero hc
  obtain ⟨b, rfl⟩ := he.eq_noteSpsc_of_ne_ok hc
  exact ⟨hres, hres2, hports, rfl⟩

/-! ### The statuses of each command -/

/-- Settles O46: each effect that is no success has a status of its command's row of R203's table. -/
theorem statusPerCommand : Obligations.StatusPerCommand := by
  intro i s t hcur h hfeed
  obtain ⟨c, u, r, r2, he, -, ⟨hcode, -⟩, -⟩ := exec_completes hcur h hfeed
  rw [hcode]
  cases he with
  | none _ _ hnone =>
    rcases hnone with rfl | ⟨e, rfl | rfl, rfl⟩ | ⟨e, x, len, rfl, hc⟩ | ⟨e, x, k, rfl | rfl, hc⟩
    · exact .inl rfl
    · exact .inr rfl
    · exact .inr rfl
    · exact .inr (hc.imp (congrArg statusCode) (.imp (congrArg statusCode) (congrArg statusCode)))
    · exact .inr (hc.imp (congrArg statusCode) (congrArg statusCode))
    · exact .inr (hc.imp (congrArg statusCode) (congrArg statusCode))
  | storeRefused => exact .inr rfl
  | feedRefused => exact .inr rfl
  | _ => exact .inl rfl

end Sys2Proof.Machine
end
